-- ==== Sys2Proof/Word.lean ====
section
/-! DEFINITION. The widths of what the part stores and sends (spec/11_encodings.md, R185). -/
namespace Sys2Proof

/-- One byte on a port, and every 8-bit count, code and setting of the part. -/
abbrev Byte := BitVec 8

/-- A 16-bit quantity: counters, rounds, due rounds, 16-bit stamps and timings. -/
abbrev Word16 := BitVec 16

/-- A 16-bit quantity of a request as it travels: the byte that comes first, and the one after it (R185). -/
structure TwoBytes where
  first : Byte
  second : Byte
  deriving DecidableEq, Repr

/-- The lesson clock and the 32-bit stamps (R1). -/
abbrev Word32 := BitVec 32

end Sys2Proof
end

