-- ==== Sys2Proof/Config.lean ====
section
/-! DEFINITION. The capacities and fixed numbers of the part. Nothing here is a free value: the spec leaves open no
value that the part computes, only orders, and those are operands of the commands (log 1, log 4, log 5). -/
namespace Sys2Proof.Config

/-- 128 word records (R23). -/
abbrev wordCount : Nat := 128
/-- 64 phrase pages (R97). -/
abbrev pageCount : Nat := 64
/-- 48 phrase handles (R98). -/
abbrev handleCount : Nat := 48
/-- 64 key positions a matrix (R2). -/
abbrev keyCount : Nat := 64
/-- 52 bytes of snapshot (R167). -/
abbrev snapshotSize : Nat := 52
/-- 16 item places a page (R97). -/
def pageSize : Nat := 16
/-- 16 entries a key queue (R18). -/
def keyQueueSize : Nat := 16
/-- 16 records in the report queue (R149). -/
def reportQueueSize : Nat := 16
/-- 20 symbols on an entry line (R41). -/
def lineSize : Nat := 20
/-- Most letters of a word (R23). -/
def maxLetters : Nat := 16
/-- Most items of a phrase (R98). -/
def maxItems : Nat := 128
/-- Places of the system lane (R114). -/
def systemLaneSize : Nat := 4
/-- Places of a prompt lane (R114). -/
def promptLaneSize : Nat := 4
/-- Places of an echo lane (R114). -/
def echoLaneSize : Nat := 8
/-- Places of a prompt lane that a SAY leaves free (R118). -/
def drillReserve : Nat := 2
/-- Bytes of a report record (R149). -/
def recordSize : Nat := 16
/-- The Display Port's address (R186). -/
def displayAddress : BitVec 7 := 0x3A
/-- Part code (11_encodings.md, IDENTIFY). -/
def partCode : Word16 := 0x0240
/-- Revision (11_encodings.md, IDENTIFY). -/
def revision : Byte := 0x01
/-- Filler and the byte of none (R185). -/
def filler : Byte := 255

/-- The command codes of the Lesson Port (11_encodings.md). -/
def lessonCodes : List Byte :=
  [0x01, 0x02, 0x03, 0x04, 0x10, 0x11, 0x12, 0x13, 0x14, 0x15, 0x20, 0x21, 0x22, 0x23,
   0x30, 0x31, 0x32, 0x33, 0x34, 0x35, 0x36, 0x40, 0x41, 0x42, 0x43, 0x44, 0x45]

/-- The request codes of the Speech Port (11_encodings.md). -/
def speechCodes : List Byte := [0x01, 0x02]

end Sys2Proof.Config
end

