-- ==== Sys2Proof/Machine/Bytes.lean ====
section
/-! DEFINITION. How quantities lie in the bytes on the ports, and what follows the last byte of a reply (R185). -/
namespace Sys2Proof.Machine
open Sys2Proof

/-- The quantity two request bytes make: most significant byte first (R185). -/
def wordOf (x : TwoBytes) : Word16 := x.first ++ x.second

/-- Most significant byte first (R185). -/
def bytes16 (x : Word16) : List Byte := [x.extractLsb' 8 8, x.extractLsb' 0 8]

/-- Most significant byte first (R185). -/
def bytes32 (x : Word32) : List Byte :=
  [x.extractLsb' 24 8, x.extractLsb' 16 8, x.extractLsb' 8 8, x.extractLsb' 0 8]

/-- Byte n, counted from 0, of what goes out after the last request byte: the reply's own bytes, then filler for as long
as the master clocks. A reply without content is filler from its first byte on (R178, R185). -/
def replyByte (reply : List Byte) (n : Nat) : Byte := reply.getD n Config.filler

end Sys2Proof.Machine
end

