-- ==== Sys2Proof/Syntax.lean ====
section
/-! DEFINITION. The commands: one constructor for each row of spec/opcode_table.json. Operands are the raw bytes and
words of spec/11_encodings.md, so every value a port can carry is a command; what is out of range is the command's own
business. -/
namespace Sys2Proof

/-- Seat A or seat B, and matrix A or matrix B, which belong to them (R2). -/
inductive Seat
  | a
  | b
  deriving DecidableEq, Repr

/-- How far a Lesson Port frame has got when a row of the table comes: its last request byte has arrived (R178), or its
frame ends (R179). A `frameEnd` with nothing received before it is a whole frame (log 7). -/
inductive FrameStage
  | request
  | frameEnd
  deriving DecidableEq, Repr

/-- A timer of the part whose expiry is a step (R13, R65, R144, R155). The flag of `response` is the order of R159
(log 5). -/
inductive Timer
  | repeating (matrix : Seat)
  | idle (seat : Seat)
  | response (timeoutFirst : Bool)
  | aged
  deriving DecidableEq, Repr

/-- A step of another block that meets the end of a READ_REPORTS frame, with its row's operands: the steps that can offer
a record of their own (R62, R150). -/
inductive Meeting
  | tick (readA readB : BitVec 64) (before : List Timer) (order : List Seat)
  | expiry (timer : Timer)
  | fetch (flags : Byte)
  | engineDone (serial outcome : Byte)
  deriving DecidableEq, Repr

/-- What R62, R150 and R152 leave open when room appears in the report queue: the steps of other blocks that are taken at
the same event before a holding seat offers; which of two holding seats offers first; whether it leaves REVIEW, with the
records that may bring, before the other offers, heeded while that leaves the other its slot (R152); and, when both have
offered before either leaves, which leaves first (log 4). -/
structure RoomOrder where
  met : List Meeting
  first : Seat
  leaveBetween : Bool
  leavesFirst : Seat
  deriving DecidableEq, Repr

/-- How many bytes were sent whole in a read on the Display Port, and how many of them before a reset that came within it,
if one did (R168, R170). -/
structure ReadSent where
  bytes : Nat
  beforeReset : Nat
  deriving DecidableEq, Repr

/-- A command to the part. The docstring of each constructor names its row. -/
inductive Instr
  /-- POWER_ON_RESET (R1). -/
  | powerOnReset
  /-- LESSON_CLOCK_TICK (R1, R2): the readings of both matrices, bit p set where position p reads pressed; the expiries
  of this millisecond that are taken before its scan passes; whose position the scan takes next, for as long as the list
  lasts, then matrix A's rest and matrix B's (log 1). -/
  | lessonClockTick (readA readB : BitVec 64) (before : List Timer) (order : List Seat)
  /-- REPEAT (R13). -/
  | repeatExpiry (matrix : Seat)
  /-- IDLE_TIMER_EXPIRY (R65). -/
  | idleTimerExpiry (seat : Seat)
  /-- STATUS_BYTE (R172). -/
  | statusByte
  /-- SHORT_FRAME (R177). -/
  | shortFrame
  /-- UNKNOWN_COMMAND (R175). -/
  | unknownCommand (stage : FrameStage) (code : Byte)
  /-- IDENTIFY (R181). -/
  | identify (stage : FrameStage)
  /-- RESET_PART (R182). -/
  | resetPart (stage : FrameStage)
  /-- SET_TIMING (R183). -/
  | setTiming (stage : FrameStage) (debounce mashLimit : Byte) (repeatDelay repeatRate tResp : TwoBytes)
  /-- LOAD_KEYMAP (R4): the 64 code bytes as a list. -/
  | loadKeymap (stage : FrameStage) (matrix diodes : Byte) (codes : List Byte)
  /-- LOAD_WORD (R26, R27): the length field and the bytes that follow it. -/
  | loadWord (stage : FrameStage) (length : TwoBytes) (params : List Byte)
  /-- READ_WORD (R29). -/
  | readWord (stage : FrameStage) (index : Byte)
  /-- SET_PROGRESS (R30, R31). -/
  | setProgress (stage : FrameStage) (index seat : Byte) (mastery due : TwoBytes) (streak : Byte) (seen : TwoBytes)
      (verdict : Byte)
  /-- READ_PROGRESS (R32). -/
  | readProgress (stage : FrameStage) (index seat : Byte)
  /-- SET_INTERVALS (R34). -/
  | setIntervals (stage : FrameStage) (e0 e1 e2 e3 : Byte)
  /-- SET_FEEDBACK (R124). -/
  | setFeedback (stage : FrameStage) (slot handle : Byte)
  /-- WRITE_PHRASE (R101): the length field and the bytes that follow it. -/
  | writePhrase (stage : FrameStage) (length : TwoBytes) (params : List Byte)
  /-- FREE_PHRASE (R105). -/
  | freePhrase (stage : FrameStage) (handle : Byte)
  /-- READ_PHRASE_INFO (R110). -/
  | readPhraseInfo (stage : FrameStage) (handle : Byte)
  /-- SAY (R120, R121). -/
  | say (stage : FrameStage) (handle target channel tag : Byte)
  /-- SET_SEAT (R42): the settings block in its order. -/
  | setSeat (stage : FrameStage) (seat check tries gain echo bargeIn autoNext flush idleTimeout nudgeLimit : Byte)
      (round : TwoBytes)
  /-- START_SEAT (R43). -/
  | startSeat (stage : FrameStage) (seat : Byte)
  /-- NEXT_WORD (R48, R49). -/
  | nextWord (stage : FrameStage) (seat index : Byte)
  /-- PAUSE_SEAT (R68). -/
  | pauseSeat (stage : FrameStage) (seat : Byte)
  /-- RESUME_SEAT (R69). -/
  | resumeSeat (stage : FrameStage) (seat : Byte)
  /-- STOP_SEAT (R44). -/
  | stopSeat (stage : FrameStage) (seat : Byte)
  /-- READ_SEAT (R74). -/
  | readSeat (stage : FrameStage) (seat : Byte)
  /-- READ_REPORTS (R153, R154): how many reply bytes the frame clocks out, the count byte included, and the orders
  of R62. -/
  | readReports (stage : FrameStage) (clocked : Nat) (room : RoomOrder)
  /-- READ_CAUSE (R158). -/
  | readCause (stage : FrameStage)
  /-- SET_CAUSES (R157). -/
  | setCauses (stage : FrameStage) (enables trigger : Byte) (tAge : TwoBytes)
  /-- READ_FAULT (R160). -/
  | readFault (stage : FrameStage)
  /-- CLEAR_FAULT (R161). -/
  | clearFault (stage : FrameStage)
  /-- READ_COUNTERS (R162). -/
  | readCounters (stage : FrameStage) (flags : Byte)
  /-- AGED (R155). -/
  | agedExpiry
  /-- FETCH (R133 to R141): the flags byte. -/
  | fetch (flags : Byte)
  /-- DONE (R142): the serial byte and the outcome byte. -/
  | engineDone (serial outcome : Byte)
  /-- UNKNOWN_SPEECH_REQUEST (R143). -/
  | unknownSpeechRequest (code : Byte)
  /-- RESPONSE_TIMER_EXPIRY (R144); the flag is the order of R159 (log 5). -/
  | responseTimerExpiry (timeoutFirst : Bool)
  /-- DISPLAY_POINTER_WRITE (R166). -/
  | displayPointerWrite (address : BitVec 7) (data : List Byte)
  /-- DISPLAY_READ_BEGIN (R167). -/
  | displayReadBegin (address : BitVec 7)
  /-- DISPLAY_READ_END (R168, R170). -/
  | displayReadEnd (sent : ReadSent)
  deriving DecidableEq, Repr

end Sys2Proof
end

