-- ==== Sys2Proof/WellFormed.lean ====
section
/-! DEFINITION. Which commands are what their row says: as many parameter bytes as the request announces, a code that is
unlisted where the row is for unlisted codes, no expiry named twice in one tick. The machine gives every command a
meaning all the same. -/
namespace Sys2Proof
open Sys2Proof.Machine

/-- A list-carrying request brings the bytes its length field announces, unless the length is refused before them
(R174, R176). -/
def paramsMatch (fixed : Nat) (length : TwoBytes) (params : List Byte) : Bool :=
  decide ((wordOf length).toNat < fixed) || decide (params.length = (wordOf length).toNat)

/-- A step that meets another names no expiry twice. -/
def Meeting.wellFormed : Meeting → Bool
  | .tick _ _ before _ => decide before.Nodup
  | .expiry _ | .fetch _ | .engineDone _ _ => true

/-- The command is one its row describes. -/
def Instr.wellFormed : Instr → Bool
  | .lessonClockTick _ _ before _ => decide before.Nodup
  | .unknownCommand _ code => !Config.lessonCodes.contains code
  | .loadKeymap _ _ _ codes => decide (codes.length = Config.keyCount)
  | .loadWord _ length params => paramsMatch 5 length params
  | .writePhrase _ length params => paramsMatch 2 length params
  | .readReports _ _ room => room.met.all Meeting.wellFormed
  | .unknownSpeechRequest code => !Config.speechCodes.contains code
  | .powerOnReset | .repeatExpiry _ | .idleTimerExpiry _ | .statusByte | .shortFrame | .identify _ | .resetPart _
  | .setTiming .. | .readWord .. | .setProgress .. | .readProgress .. | .setIntervals .. | .setFeedback ..
  | .freePhrase .. | .readPhraseInfo .. | .say .. | .setSeat .. | .startSeat .. | .nextWord .. | .pauseSeat ..
  | .resumeSeat .. | .stopSeat .. | .readSeat .. | .readCause _ | .setCauses .. | .readFault _
  | .clearFault _ | .readCounters .. | .agedExpiry | .fetch _ | .engineDone .. | .responseTimerExpiry _
  | .displayPointerWrite .. | .displayReadBegin _ | .displayReadEnd _ => true

end Sys2Proof
end

