-- ==== Sys2Proof/Decode.lean ====
section
/-! DEFINITION. The command a word spells by the bits of spec/opcode_table.json. No row of that table gives any bits
(spec/98_reader.md: "n_rows_with_fixed": 0), so no word spells a command (log 21). -/
namespace Sys2Proof

/-- No row gives bits: every word is refused. -/
def decodeTableWord (_nbits _w : Nat) : Option Instr := none

end Sys2Proof
end

