-- ==== Sys2Proof/Machine/State.lean ====
section
/-! DEFINITION. Everything the spec gives the part to hold, as plain data, and the part right after reset. Each field
cites the rule that names it; INVENTORY.md lists them with their reset values. -/
namespace Sys2Proof.Machine
open Sys2Proof

/-- The part has no fault that stops it: a fault in the spec's sense is a write of the fault record (R159). -/
inductive Fault
  deriving DecidableEq, Repr

/-- Why a command has no answer. -/
inductive Refusal
  /-- Raised by an arm of `exec` for a row that has no meaning yet. Safe: the model stops. -/
  | notModelled (mnemonic : String)
  deriving DecidableEq, Repr

/-- One thing for each seat, or for each matrix. -/
structure Pair (α : Type) where
  a : α
  b : α
  deriving DecidableEq, Repr

/-- One of the nine counters (R162). `value` is the 16-bit counter, which stops at 65535; `beyond` is the number of counts
that came while it stood there, so that a clearing READ COUNTERS can leave it the counts its reply did not show
(log 28). -/
structure Counter where
  value : Word16
  beyond : Nat
  deriving DecidableEq, Repr

/-! ## Key Scanner (01_keyboards_and_the_key_scanner.md) -/

/-- The debounce state of one key, with its settling or release count (R6 to R8). -/
inductive KeyState
  | up
  | settlingDown (count : Nat)
  | down
  | settlingUp (count : Nat)
  | blocked (release : Nat)
  deriving DecidableEq, Repr

/-- The condition of a matrix (R10). -/
inductive Condition
  | normal
  | mashed
  deriving DecidableEq, Repr

/-- The repeating key of a matrix and the repeat timer's time left in milliseconds (R13). -/
structure Repeat where
  position : Fin Config.keyCount
  left : Nat
  deriving DecidableEq, Repr

/-- What the Key Scanner holds for one matrix (R22). -/
structure MatrixState where
  keymap : Vector Byte Config.keyCount
  diodes : Bool
  keys : Vector KeyState Config.keyCount
  condition : Condition
  repeating : Option Repeat
  ghosts : Counter
  deriving DecidableEq, Repr

/-- The four scanner settings that both matrices share (R5). -/
structure ScanTiming where
  debounce : Byte
  mashLimit : Byte
  repeatDelay : Word16
  repeatRate : Word16
  deriving DecidableEq, Repr

/-- The kind of a key queue entry (R18). -/
inductive KeyKind
  | press
  | repeated
  | mash
  deriving DecidableEq, Repr

/-- An entry of a seat's key queue (R18). -/
structure KeyEntry where
  code : Byte
  kind : KeyKind
  stamp : Word16
  overrun : Bool
  deriving DecidableEq, Repr

/-! ## Word Deck (02_the_word_deck.md) -/

/-- Index of a word record (R23). -/
abbrev WordIndex := Fin Config.wordCount
/-- A phrase's number (R98). -/
abbrev Handle := Fin Config.handleCount
/-- A page of phrase memory (R97). -/
abbrev Page := Fin Config.pageCount

/-- A verdict, with NONE before any judgement (R85). -/
inductive Verdict
  | none
  | exact
  | helped
  | near
  | missed
  deriving DecidableEq, Repr

/-- A seat's progress on a word (R24). -/
structure Progress where
  mastery : Byte
  due : Word16
  streak : Byte
  seen : Word16
  last : Verdict
  deriving DecidableEq, Repr

/-- A word record (R23). -/
structure WordRecord where
  enabled : Bool
  letters : List Byte
  prompt : Option Handle
  sentence : Option Handle
  progress : Pair Progress
  deriving DecidableEq, Repr

/-- The word deck: 128 records and the interval table (R23, R34). -/
structure Deck where
  words : Vector WordRecord Config.wordCount
  intervals : Vector Byte 4
  deriving DecidableEq, Repr

/-! ## Seats (03_seats_and_the_drill_cycle.md, 04_judging_an_attempt.md) -/

inductive CheckMode
  | whole
  | strict
  deriving DecidableEq, Repr

/-- Who gave a symbol (R75). -/
inductive Origin
  | typed
  | hinted
  deriving DecidableEq, Repr

/-- A symbol's mark (R75). -/
inductive Mark
  | unchecked
  | right
  | wrong
  deriving DecidableEq, Repr

/-- One place of an entry line (R75). -/
structure Symbol where
  letter : Byte
  origin : Origin
  mark : Mark
  deriving DecidableEq, Repr

/-- A seat's settings (R42); the round is a field of the seat. -/
structure Settings where
  check : CheckMode
  triesAllowed : Byte
  gain : Byte
  echo : Bool
  bargeIn : Bool
  autoNext : Bool
  flush : Bool
  idleTimeout : Byte
  nudgeLimit : Byte
  deriving DecidableEq, Repr

/-- The phase of REVIEW (R59). The flags feedback-pending and result-pending are `SeatContext.reviewFeedback` and
`SeatContext.pendingResult` (log 11). -/
inductive ReviewPhase
  | retry
  | final
  deriving DecidableEq, Repr

inductive PauseReason
  | child
  | lesson
  | gone
  deriving DecidableEq, Repr

/-- Where a paused seat goes on (R41). -/
inductive ResumePoint
  | present
  | entry
  | review (phase : ReviewPhase)
  deriving DecidableEq, Repr

/-- A seat's state with what is present in it only (R41). -/
inductive SeatState
  | off
  | idle
  | present
  | entry
  | review (phase : ReviewPhase)
  | paused (reason : PauseReason) (resume : ResumePoint)
  deriving DecidableEq, Repr

/-- The kinds of first error but NONE (R83). -/
inductive ErrorKind
  | swap
  | substitute
  | omit
  | insert
  deriving DecidableEq, Repr

/-- A first error: its kind and its target position (R83). -/
structure FirstError where
  kind : ErrorKind
  position : Nat
  deriving DecidableEq, Repr

/-- A WORD_RESULT (R93); its stamp is the record's. -/
structure WordResult where
  seat : Seat
  word : WordIndex
  verdict : Verdict
  distance : Nat
  firstError : Option FirstError
  hints : Byte
  tries : Byte
  replays : Byte
  overtyped : Byte
  score : Byte
  oldMastery : Byte
  newMastery : Byte
  entryTime : Word16
  deriving DecidableEq, Repr

/-- A result that waits for report room, with the progress figures that its posting writes (R92). -/
structure PendingResult where
  result : WordResult
  streak : Byte
  due : Word16
  deriving DecidableEq, Repr

/-- The seat context (R41). Entries of lanes are named by their number (log 22). -/
structure SeatContext where
  state : SeatState
  currentWord : Option WordIndex
  previousWord : Option WordIndex
  round : Word16
  line : List Symbol
  tries : Byte
  hints : Byte
  replays : Byte
  overtyped : Byte
  nudges : Byte
  idleTimer : Option Nat
  entryMs : Nat
  pendingResult : Option PendingResult
  presentationPrompt : Option Nat
  reviewFeedback : Option Nat
  settings : Settings
  deriving DecidableEq, Repr

/-! ## Phrase Memory (05_phrase_memory.md) -/

/-- A speech item (R99). -/
inductive Item
  | letter (code : Byte)
  | sound (phoneme : Byte)
  | pause (units : Byte)
  | cue (tone : Byte)
  | spellTarget
  | spellEntry
  deriving DecidableEq, Repr

inductive HandleState
  | empty
  | kept
  | oneShot
  | releasing
  deriving DecidableEq, Repr

/-- What a handle holds (R98). -/
structure HandleRecord where
  state : HandleState
  itemCount : Nat
  chain : List Page
  references : Nat
  deriving DecidableEq, Repr

/-- Phrase memory (R97, R98): the pages' items, the free set in rising order, the handles. -/
structure PhraseMemory where
  pages : Vector (List Item) Config.pageCount
  free : List Page
  handles : Vector HandleRecord Config.handleCount
  deriving DecidableEq, Repr

/-! ## Speech Lanes (06_speech_lanes.md) -/

/-- Kind and content of a speech entry (R112). -/
inductive Content
  | phrase (handle : Handle)
  | letter (code : Byte)
  | cue (tone : Byte)
  deriving DecidableEq, Repr

inductive SpeechOrigin
  | drillPrompt
  | drillFeedback
  | drillEcho
  | lessonSay
  deriving DecidableEq, Repr

inductive Channel
  | left
  | right
  | both
  deriving DecidableEq, Repr

inductive EntryState
  | queued
  | streaming
  | draining
  deriving DecidableEq, Repr

/-- A speech entry (R112). A channel of none is undecided. -/
structure SpeechEntry where
  id : Nat
  content : Content
  origin : SpeechOrigin
  seat : Option Seat
  channel : Option Channel
  tag : Byte
  state : EntryState
  cutPending : Bool
  deriving DecidableEq, Repr

/-- The five lanes (R114). -/
inductive LaneId
  | system
  | prompt (seat : Seat)
  | echo (seat : Seat)
  deriving DecidableEq, Repr

/-- How a speech entry ended (R117). -/
inductive SpeechOutcome
  | played
  | cut
  | failed
  | lost
  | cancelled
  deriving DecidableEq, Repr

/-- The lanes, oldest entry first, the feedback table and the dropped-echo counters (R114, R119, R123). -/
structure Lanes where
  system : List SpeechEntry
  prompt : Pair (List SpeechEntry)
  echo : Pair (List SpeechEntry)
  feedback : Vector (Option Handle) 8
  dropped : Pair Counter
  deriving DecidableEq, Repr

/-! ## Speech Link (07_the_speech_link.md) -/

/-- A spell expansion in progress: the letters copied, and how many of its items have been given (R140). -/
structure Expansion where
  letters : List Byte
  place : Nat
  deriving DecidableEq, Repr

/-- The in-flight utterance (R131); its entry is the head of its lane. -/
structure Utterance where
  lane : LaneId
  serial : Byte
  position : Nat
  expansion : Option Expansion
  deriving DecidableEq, Repr

/-- The reply record of a FETCH (R130). -/
inductive FetchReply
  | idle
  | start (serial : Byte) (channel : Channel)
  | item (item : Item) (serial : Byte)
  | ended (cut : Bool) (serial : Byte)
  deriving DecidableEq, Repr

/-- The Speech Link (R131). `reply` is the bytes the last request was answered with (log 9). -/
structure Link where
  inFlight : Option Utterance
  sequence : Option Bool
  lastReply : FetchReply
  fetched : Bool
  serial : Byte
  pointer : Seat
  responseTimer : Option Nat
  tResp : Word16
  duplicates : Counter
  stales : Counter
  reply : List Byte
  deriving DecidableEq, Repr

/-! ## Report Unit (08_reports_attention_and_faults.md) -/

inductive SeatEvent
  | nudge
  | gone
  | mash
  | noPrompt
  | deckEmpty
  | childPause
  | childResume
  deriving DecidableEq, Repr

/-- What a report record says beside its stamp (R149). -/
inductive Report
  | wordResult (result : WordResult)
  | speechDone (tag : Byte) (outcome : SpeechOutcome) (seat : Option Seat) (channel : Option Channel)
  | lessonKey (matrix : Seat) (code : Byte)
  | seatEvent (seat : Seat) (event : SeatEvent)
  deriving DecidableEq, Repr

/-- A record of the report queue (R149). -/
structure Record where
  stamp : Word32
  body : Report
  deriving DecidableEq, Repr

inductive FaultKind
  | engineTimeout
  | engineProtocol
  | keyOverrun
  | reportLoss
  deriving DecidableEq, Repr

/-- A held fault record (R159). -/
structure FaultRecord where
  kind : FaultKind
  detail : Byte
  stamp : Word32
  extra : Byte
  deriving DecidableEq, Repr

/-- One flag for each attention cause (R155, R156). -/
structure Causes where
  fault : Bool
  hold : Bool
  level : Bool
  aged : Bool
  deriving DecidableEq, Repr

/-- The Report Unit (R163). The fault record is held when `fault` is something. The causes FAULT, HOLD and LEVEL are
worked out from the state; AGED is stored, since its expiry is a step of its own (log 10). -/
structure ReportUnit where
  queue : List Record
  losses : Counter
  enables : Causes
  trigger : Byte
  tAge : Word16
  fault : Option FaultRecord
  agedPending : Bool
  deriving DecidableEq, Repr

/-! ## Display Mirror (09_the_display_mirror.md) -/

/-- A seat's state as the display sees it (R73). -/
inductive ShownState
  | off
  | idle
  | present
  | entry
  | review
  | paused
  deriving DecidableEq, Repr

/-- A live image, or its copy in the snapshot (R164). -/
structure Image where
  generation : Byte
  state : ShownState
  targetLength : Nat
  verdict : Verdict
  tries : Byte
  symbols : List Symbol
  deriving DecidableEq, Repr

/-- The read in progress on the Display Port (R167, R170). A read abandoned by a reset keeps the snapshot it was sent from
until the reset, since the bytes sent before it stand (log 9). -/
inductive ReadState
  | none
  | reading (start : Fin Config.snapshotSize)
  | abandoned (start : Fin Config.snapshotSize) (before : Pair Image)
  deriving DecidableEq, Repr

/-- The Display Mirror (R170). `acks` and `sent` are what the last transaction put on the port (log 9). -/
structure Mirror where
  live : Pair Image
  delivered : Pair Byte
  snapshot : Pair Image
  pointer : Fin Config.snapshotSize
  read : ReadState
  acks : List Bool
  sent : List Byte
  deriving DecidableEq, Repr

/-! ## Lesson Port (10_the_lesson_port.md) -/

/-- The eight outcomes of a frame (R173). -/
inductive LessonOutcome
  | ok
  | unknown
  | length
  | range
  | inUse
  | noSpace
  | state
  | short
  deriving DecidableEq, Repr

/-- The nine counters (R162). -/
structure Counters where
  ghosts : Pair Counter
  lostKeys : Pair Counter
  dropped : Pair Counter
  duplicates : Counter
  stales : Counter
  losses : Counter
  deriving DecidableEq, Repr

/-- What a reply showed that the end of its frame needs: the report count (R154) and the counters (R162). -/
structure Shown where
  reportCount : Nat
  counters : Counters
  deriving DecidableEq, Repr

/-- The frame decoder (R174 to R179): waiting for LCS to fall, receiving, or holding a complete request, its refusal by
UNKNOWN, LENGTH or RANGE if it has one, and what its reply showed. -/
inductive Frame
  | waiting
  | receiving
  | complete (request : Instr) (refusal : Option LessonOutcome) (shown : Shown)
  deriving DecidableEq, Repr

/-- The Lesson Port (R184), with the level of its LCS pin. `reply` is the bytes the last request was answered with
before filler (log 9). -/
structure LessonPort where
  lcsLow : Bool
  frame : Frame
  lastOutcome : LessonOutcome
  status : Byte
  reply : List Byte
  deriving DecidableEq, Repr

/-- The three output lines (R132, R156, R169). -/
structure Pins where
  attn : Bool
  srq : Bool
  dchg : Bool
  deriving DecidableEq, Repr

/-- The whole part, and the queue of commands that wait for it. -/
structure State where
  clock : Word32
  timing : ScanTiming
  matrices : Pair MatrixState
  keyQueues : Pair (List KeyEntry)
  lostKeys : Pair Counter
  deck : Deck
  seats : Pair SeatContext
  phrases : PhraseMemory
  lanes : Lanes
  link : Link
  reports : ReportUnit
  mirror : Mirror
  port : LessonPort
  pins : Pins
  nextEntryId : Nat
  pending : List Instr
  deriving DecidableEq, Repr

/-! ## Reset values -/

/-- R162, R182. -/
def Counter.reset : Counter := { value := 0, beyond := 0 }

/-- R22. -/
def MatrixState.reset : MatrixState where
  keymap := Vector.replicate _ 0
  diodes := false
  keys := Vector.replicate _ .up
  condition := .normal
  repeating := none
  ghosts := .reset

/-- R5. -/
def ScanTiming.reset : ScanTiming := { debounce := 10, mashLimit := 4, repeatDelay := 500, repeatRate := 150 }

/-- R24. -/
def Progress.reset : Progress := { mastery := 0, due := 0, streak := 0, seen := 0, last := .none }

/-- R23. -/
def WordRecord.reset : WordRecord where
  enabled := false
  letters := []
  prompt := none
  sentence := none
  progress := { a := .reset, b := .reset }

/-- R40. -/
def Deck.reset : Deck := { words := Vector.replicate _ .reset, intervals := #v[2, 5, 12, 30] }

/-- R42. -/
def Settings.reset : Settings where
  check := .whole
  triesAllowed := 2
  gain := 4
  echo := true
  bargeIn := true
  autoNext := true
  flush := true
  idleTimeout := 8
  nudgeLimit := 2

/-- R41. -/
def SeatContext.reset : SeatContext where
  state := .off
  currentWord := none
  previousWord := none
  round := 0
  line := []
  tries := 1
  hints := 0
  replays := 0
  overtyped := 0
  nudges := 0
  idleTimer := none
  entryMs := 0
  pendingResult := none
  presentationPrompt := none
  reviewFeedback := none
  settings := .reset

/-- R98. -/
def HandleRecord.reset : HandleRecord := { state := .empty, itemCount := 0, chain := [], references := 0 }

/-- R111. The pages' contents are not given and cannot be read: DESIGN CHOICE empty (log 16). -/
def PhraseMemory.reset : PhraseMemory where
  pages := Vector.replicate _ []
  free := (List.range Config.pageCount).map (Fin.ofNat Config.pageCount)
  handles := Vector.replicate _ .reset

/-- R129. -/
def Lanes.reset : Lanes where
  system := []
  prompt := { a := [], b := [] }
  echo := { a := [], b := [] }
  feedback := Vector.replicate _ none
  dropped := { a := .reset, b := .reset }

/-- R148. -/
def Link.reset : Link where
  inFlight := none
  sequence := none
  lastReply := .idle
  fetched := false
  serial := 0
  pointer := .a
  responseTimer := none
  tResp := 3000
  duplicates := .reset
  stales := .reset
  reply := []

/-- R163. -/
def ReportUnit.reset : ReportUnit where
  queue := []
  losses := .reset
  enables := { fault := true, hold := true, level := true, aged := false }
  trigger := 1
  tAge := 200
  fault := none
  agedPending := false

/-- R170. -/
def Image.reset : Image :=
  { generation := 0, state := .off, targetLength := 0, verdict := .none, tries := 1, symbols := [] }

/-- R170. -/
def Mirror.reset : Mirror where
  live := { a := .reset, b := .reset }
  delivered := { a := 0, b := 0 }
  snapshot := { a := .reset, b := .reset }
  pointer := 0
  read := .none
  acks := []
  sent := []

/-- R184. LCS is an input, taken as high (log 8); the status byte is the one the first frame makes up (log 9). -/
def LessonPort.reset : LessonPort :=
  { lcsLow := false, frame := .waiting, lastOutcome := .ok, status := 0, reply := [] }

/-- The part right after reset: each block as its own chapter says, ATTN, SRQ and DCHG deasserted (R182), no command
waiting. -/
def State.reset : State where
  clock := 0
  timing := .reset
  matrices := { a := .reset, b := .reset }
  keyQueues := { a := [], b := [] }
  lostKeys := { a := .reset, b := .reset }
  deck := .reset
  seats := { a := .reset, b := .reset }
  phrases := .reset
  lanes := .reset
  link := .reset
  reports := .reset
  mirror := .reset
  port := .reset
  pins := { attn := false, srq := false, dchg := false }
  nextEntryId := 0
  pending := []

end Sys2Proof.Machine
end

