-- ==== Sys2Proof/Machine/Ops.lean ====
section
/-! DEFINITION. Reading and writing the parts of State, and the arithmetic of its counters. Every register has its one
home in State; the two seats and the two matrices are reached through `Pair.get` and `Pair.set` alone. -/
namespace Sys2Proof.Machine
open Sys2Proof

/-! ## Arithmetic -/

/-- Counters stop at their largest value (00_scope.md, "Saturation and wrap"). -/
def saturatingSucc {w : Nat} (x : BitVec w) : BitVec w := if x = BitVec.allOnes w then x else x + 1

/-- One of the nine counters counts: it stops at 65535, and what comes then is counted aside (R162, log 28). -/
def Counter.count (c : Counter) : Counter :=
  if c.value = BitVec.allOnes 16 then { c with beyond := c.beyond + 1 } else { c with value := c.value + 1 }

/-- A counter at the end of a clearing READ COUNTERS frame: it is reduced by the value the reply gave, and keeps exactly
the counts that came after the reply, up to 65535 (R162, log 28). -/
def Counter.reduce (shown c : Counter) : Counter where
  value := BitVec.ofNat 16 (min 65535 ((c.value - shown.value).toNat + (c.beyond - shown.beyond)))
  beyond := 0

/-- A setting outside its range is pulled to the nearer end (R180). -/
def pullInto {w : Nat} (low high x : BitVec w) : BitVec w :=
  if x.toNat < low.toNat then low else if high.toNat < x.toNat then high else x

/-- A 16-bit stamp is the low 16 bits of the lesson clock (R1). -/
def stamp16 (clock : Word32) : Word16 := clock.setWidth 16

/-- A count of at most 255 as a byte. -/
def byteOf (n : Nat) : Byte := BitVec.ofNat 8 n

/-- A flag as a byte: 0 or 1 (11_encodings.md, "Shared codes"). -/
def flagByte (b : Bool) : Byte := if b then 1 else 0

/-- One more millisecond gone from a timer's time left; at 0 its expiry is due (log 26). -/
def countDown (timer : Option Nat) : Option Nat := timer.map (· - 1)

/-! ## Seats and matrices -/

/-- The other of the two. -/
def otherSeat : Seat → Seat
  | .a => .b
  | .b => .a

def Pair.get {α : Type} (p : Pair α) : Seat → α
  | .a => p.a
  | .b => p.b

def Pair.set {α : Type} (p : Pair α) (k : Seat) (x : α) : Pair α :=
  match k with
  | .a => { p with a := x }
  | .b => { p with b := x }

def State.seat (s : State) (k : Seat) : SeatContext := s.seats.get k

def State.setSeat (s : State) (k : Seat) (c : SeatContext) : State := { s with seats := s.seats.set k c }

/-- A seat's context is changed in place. -/
def State.mapSeat (s : State) (k : Seat) (f : SeatContext → SeatContext) : State := s.setSeat k (f (s.seat k))

def State.matrix (s : State) (m : Seat) : MatrixState := s.matrices.get m

def State.setMatrix (s : State) (m : Seat) (x : MatrixState) : State := { s with matrices := s.matrices.set m x }

def State.keyQueue (s : State) (k : Seat) : List KeyEntry := s.keyQueues.get k

def State.setKeyQueue (s : State) (k : Seat) (q : List KeyEntry) : State :=
  { s with keyQueues := s.keyQueues.set k q }

/-! ## Word deck -/

def State.word (s : State) (w : WordIndex) : WordRecord := s.deck.words[w.val]

def State.setWord (s : State) (w : WordIndex) (r : WordRecord) : State :=
  { s with deck := { s.deck with words := s.deck.words.set w.val r } }

def State.progress (s : State) (w : WordIndex) (k : Seat) : Progress := (s.word w).progress.get k

def State.setProgress (s : State) (w : WordIndex) (k : Seat) (p : Progress) : State :=
  s.setWord w { s.word w with progress := (s.word w).progress.set k p }

/-! ## Phrase memory and lanes -/

def State.handle (s : State) (h : Handle) : HandleRecord := s.phrases.handles[h.val]

def State.setHandle (s : State) (h : Handle) (r : HandleRecord) : State :=
  { s with phrases := { s.phrases with handles := s.phrases.handles.set h.val r } }

def Lanes.get (l : Lanes) : LaneId → List SpeechEntry
  | .system => l.system
  | .prompt k => l.prompt.get k
  | .echo k => l.echo.get k

def Lanes.set (l : Lanes) (i : LaneId) (x : List SpeechEntry) : Lanes :=
  match i with
  | .system => { l with system := x }
  | .prompt k => { l with prompt := l.prompt.set k x }
  | .echo k => { l with echo := l.echo.set k x }

def State.lane (s : State) (i : LaneId) : List SpeechEntry := s.lanes.get i

def State.setLane (s : State) (i : LaneId) (x : List SpeechEntry) : State := { s with lanes := s.lanes.set i x }

/-! ## Seat facts -/

/-- Out of OFF: any state but OFF (R137, R172). -/
def SeatContext.outOfOff (c : SeatContext) : Bool := decide (c.state ≠ .off)

/-- PAUSED, whatever the reason. -/
def SeatContext.isPaused (c : SeatContext) : Bool :=
  match c.state with
  | .paused _ _ => true
  | .off | .idle | .present | .entry | .review _ => false

/-- The flag feedback-pending (R41, log 11). -/
def SeatContext.feedbackPending (c : SeatContext) : Bool := c.reviewFeedback.isSome

/-- The flag result-pending; a seat whose result is pending after its offer is holding (R61, log 11). -/
def SeatContext.holding (c : SeatContext) : Bool := c.pendingResult.isSome

/-- T_idle in milliseconds (R42: the setting is in seconds). -/
def SeatContext.idleMs (c : SeatContext) : Nat := c.settings.idleTimeout.toNat * 1000

/-- The entry-time count in centiseconds (R66). -/
def SeatContext.entryTime (c : SeatContext) : Word16 := BitVec.ofNat 16 (min (c.entryMs / 10) 65535)

/-- The letters of the seat's current word, none without one (R79, R140). -/
def State.target (s : State) (k : Seat) : List Byte :=
  match (s.seat k).currentWord with
  | some w => (s.word w).letters
  | none => []

/-- The letters of the seat's entry line (R79). -/
def State.attempt (s : State) (k : Seat) : List Byte := (s.seat k).line.map (·.letter)

/-- The word is in use: the current word of either seat, or the word of either seat's pending result (R25). -/
def State.inUse (s : State) (w : WordIndex) : Bool :=
  let uses (c : SeatContext) : Bool :=
    decide (c.currentWord = some w) || decide (c.pendingResult.map (·.result.word) = some w)
  uses s.seats.a || uses s.seats.b

end Sys2Proof.Machine
end

