-- ==== Sys2Proof/Machine/Operands.lean ====
section
/-! DEFINITION. What the bytes of a request stand for (11_encodings.md). A reader answers none where the byte is out of
the list its table gives, which is out-of-range content (R180, R185). -/
namespace Sys2Proof.Machine
open Sys2Proof

/-- Seat or matrix: 0 A, 1 B. -/
def readSeatByte (x : Byte) : Option Seat := if x = 0 then some .a else if x = 1 then some .b else none

/-- On/off, yes/no: 0 or 1. -/
def readFlagByte (x : Byte) : Option Bool := if x = 0 then some false else if x = 1 then some true else none

/-- A word index, 0 to 127. -/
def readWordByte (x : Byte) : Option WordIndex :=
  if h : x.toNat < Config.wordCount then some ⟨x.toNat, h⟩ else none

/-- A handle, 0 to 47. -/
def readHandleByte (x : Byte) : Option Handle :=
  if h : x.toNat < Config.handleCount then some ⟨x.toNat, h⟩ else none

/-- A handle, or 255 for none. -/
def readHandleOrNone (x : Byte) : Option (Option Handle) :=
  if x = Config.filler then some none else (readHandleByte x).map some

/-- Check mode: 0 WHOLE, 1 STRICT. -/
def readCheckMode (x : Byte) : Option CheckMode := if x = 0 then some .whole else if x = 1 then some .strict else none

/-- Verdict: 0 NONE to 4 MISSED. -/
def readVerdict (x : Byte) : Option Verdict :=
  if x = 0 then some .none else if x = 1 then some .exact else if x = 2 then some .helped
  else if x = 3 then some .near else if x = 4 then some .missed else none

/-- Channel: 0 LEFT, 1 RIGHT, 2 BOTH. -/
def readChannel (x : Byte) : Option Channel :=
  if x = 0 then some .left else if x = 1 then some .right else if x = 2 then some .both else none

/-- The kind of a WRITE PHRASE: 1 KEPT, 2 ONE-SHOT. -/
def readPhraseKind (x : Byte) : Option HandleState :=
  if x = 1 then some .kept else if x = 2 then some .oneShot else none

/-- A DONE outcome: 1 PLAYED, 2 CUT, 3 FAILED; any other is the bad outcome of R143 (R186). -/
def readDoneOutcome (x : Byte) : Option SpeechOutcome :=
  if x = 1 then some .played else if x = 2 then some .cut else if x = 3 then some .failed else none

/-- A letter code: 1 to 27. -/
def isLetterCode (x : Byte) : Bool := decide (1 ≤ x.toNat) && decide (x.toNat ≤ 27)

/-- A key code a keymap may hold (R3). -/
def isKeyCode (x : Byte) : Bool :=
  decide (x.toNat ≤ 27) || (decide (32 ≤ x.toNat) && decide (x.toNat ≤ 36))
    || (decide (40 ≤ x.toNat) && decide (x.toNat ≤ 47))

/-- A lesson key: 40 to 47 (R17). -/
def isLessonKey (x : Byte) : Bool := decide (40 ≤ x.toNat) && decide (x.toNat ≤ 47)

/-- The key codes of R3 by name. -/
def keyErase : Byte := 32
def keyEnter : Byte := 33
def keyHint : Byte := 34
def keySayAgain : Byte := 35
def keyPause : Byte := 36

/-- A speech item from its kind byte and its value byte (R99). -/
def readItem (kind value : Byte) : Option Item :=
  if kind = 1 then (if isLetterCode value then some (.letter value) else none)
  else if kind = 2 then (if value.toNat ≤ 63 then some (.sound value) else none)
  else if kind = 3 then (if 1 ≤ value.toNat then some (.pause value) else none)
  else if kind = 4 then (if value.toNat ≤ 15 then some (.cue value) else none)
  else if kind = 5 then (if value = 0 then some .spellTarget else none)
  else if kind = 6 then (if value = 0 then some .spellEntry else none)
  else none

/-- The items of a phrase, two bytes each; none if one of them is out of range (R99). -/
def readItems : List Byte → Option (List Item)
  | kind :: value :: rest =>
    match readItem kind value, readItems rest with
    | some i, some is => some (i :: is)
    | _, _ => none
  | [] => some []
  | [_] => none

/-- Who a SAY is for (R120). -/
inductive SayTarget
  | system (channel : Channel)
  | seat (seat : Seat)
  deriving DecidableEq, Repr

/-- The target byte 0 SYSTEM, 1 SEAT A, 2 SEAT B; the channel byte is looked at for SYSTEM only (R120, R185). -/
def readSayTarget (target channel : Byte) : Option SayTarget :=
  if target = 0 then (readChannel channel).map .system
  else if target = 1 then some (.seat .a)
  else if target = 2 then some (.seat .b)
  else none

/-! ## Whole requests -/

/-- LOAD KEYMAP's parameters (R4): none if the matrix, the setting or one of the first 64 codes is out of range. -/
def readKeymapRequest (matrix diodes : Byte) (codes : List Byte) :
    Option (Seat × Bool × Vector Byte Config.keyCount) :=
  match readSeatByte matrix, readFlagByte diodes with
  | some m, some d =>
    if (codes.take Config.keyCount).all isKeyCode then
      if h : (codes.take Config.keyCount).length = Config.keyCount then
        some (m, d, ⟨(codes.take Config.keyCount).toArray, by simpa using h⟩)
      else none
    else none
  | _, _ => none

/-- A word record as LOAD WORD gives it (R26). -/
structure WordRequest where
  index : WordIndex
  enabled : Bool
  letters : List Byte
  prompt : Option Handle
  sentence : Option Handle
  zeroProgress : Bool
  deriving DecidableEq, Repr

/-- LOAD WORD's parameters: five fixed bytes, then the letters (R26; the zero-progress byte is an on-off byte, log 19). -/
def readWordRequest : List Byte → Option WordRequest
  | index :: enabled :: prompt :: sentence :: zero :: letters =>
    match readWordByte index, readFlagByte enabled, readHandleOrNone prompt, readHandleOrNone sentence,
      readFlagByte zero with
    | some w, some e, some p, some q, some z =>
      if letters.length = 0 ∨ Config.maxLetters < letters.length ∨ letters.all isLetterCode = false then none
      else some { index := w, enabled := e, letters := letters, prompt := p, sentence := q, zeroProgress := z }
    | _, _, _, _, _ => none
  | _ => none

/-- WRITE PHRASE's parameters: two fixed bytes, then the items (R101). -/
def readPhraseRequest : List Byte → Option (Handle × HandleState × List Item)
  | handle :: kind :: rest =>
    match readHandleByte handle, readPhraseKind kind, readItems rest with
    | some h, some k, some items =>
      if items.length = 0 ∨ Config.maxItems < items.length then none else some (h, k, items)
    | _, _, _ => none
  | _ => none

/-- SET PROGRESS's parameters, mastery pulled to 255 (R30). -/
def readProgressRequest (index seat : Byte) (mastery due : TwoBytes) (streak : Byte) (seen : TwoBytes) (verdict : Byte) :
    Option (WordIndex × Seat × Progress) :=
  match readWordByte index, readSeatByte seat, readVerdict verdict with
  | some w, some k, some v =>
    some (w, k,
      { mastery := (pullInto 0 255 (wordOf mastery)).setWidth 8, due := wordOf due, streak := streak, seen := wordOf seen,
        last := v })
  | _, _, _ => none

/-- T_idle: 0 stays 0, 1 is stored as 2, above 60 as 60 (R42). -/
def pullIdleTimeout (x : Byte) : Byte := if x = 0 then 0 else pullInto 2 60 x

/-- SET SEAT's parameters, the numeric ones pulled into range (R42, R180). -/
def readSettingsRequest (seat check tries gain echo bargeIn autoNext flush idleTimeout nudgeLimit : Byte) :
    Option (Seat × Settings) :=
  match readSeatByte seat, readCheckMode check, readFlagByte echo, readFlagByte bargeIn, readFlagByte autoNext,
    readFlagByte flush with
  | some k, some c, some e, some b, some a, some f =>
    some (k,
      { check := c, triesAllowed := pullInto 1 3 tries, gain := pullInto 1 8 gain, echo := e, bargeIn := b,
        autoNext := a, flush := f, idleTimeout := pullIdleTimeout idleTimeout,
        nudgeLimit := pullInto 1 7 nudgeLimit })
  | _, _, _, _, _, _ => none

/-- T_age: 0 is off, 1 to 9 is stored as 10, above 2000 as 2000 (R157). -/
def pullTAge (x : Word16) : Word16 := if x = 0 then 0 else pullInto 10 2000 x

/-- The cause bits: bit 0 FAULT, 1 HOLD, 2 LEVEL, 3 AGED; the others are unused (R157, R185). -/
def readCauses (x : Byte) : Causes :=
  { fault := x.getLsbD 0, hold := x.getLsbD 1, level := x.getLsbD 2, aged := x.getLsbD 3 }

/-- NEXT WORD's index: a word, or none for 255 (R48). -/
def readWordOrNone (x : Byte) : Option (Option WordIndex) :=
  if x = Config.filler then some none else (readWordByte x).map some

/-- A slot of the feedback table, 0 to 7 (R124). -/
def readSlot (x : Byte) : Option (Fin 8) := if h : x.toNat < 8 then some ⟨x.toNat, h⟩ else none

/-- SET FEEDBACK's parameters: slot 255 changes nothing and its handle is not looked at (R124). -/
def readFeedbackRequest (slot handle : Byte) : Option (Option (Fin 8 × Option Handle)) :=
  if slot = Config.filler then some none
  else
    match readSlot slot, readHandleOrNone handle with
    | some i, some h => some (some (i, h))
    | _, _ => none

end Sys2Proof.Machine
end

