-- ==== Sys2Proof/Machine/Encode.lean ====
section
/-! DEFINITION. The bytes the part sends: codes, records, reply blocks and display images (11_encodings.md). -/
namespace Sys2Proof.Machine
open Sys2Proof

/-! ## Codes -/

def seatCode : Seat → Byte
  | .a => 0
  | .b => 1

def outcomeCode : LessonOutcome → Byte
  | .ok => 0
  | .unknown => 1
  | .length => 2
  | .range => 3
  | .inUse => 4
  | .noSpace => 5
  | .state => 6
  | .short => 7

def checkCode : CheckMode → Byte
  | .whole => 0
  | .strict => 1

def shownStateCode : ShownState → Byte
  | .off => 0
  | .idle => 1
  | .present => 2
  | .entry => 3
  | .review => 4
  | .paused => 5

def reasonCode : PauseReason → Byte
  | .child => 0
  | .lesson => 1
  | .gone => 2

def verdictCode : Verdict → Byte
  | .none => 0
  | .exact => 1
  | .helped => 2
  | .near => 3
  | .missed => 4

def errorCode : Option FirstError → Byte
  | none => 0
  | some e =>
    match e.kind with
    | .swap => 1
    | .substitute => 2
    | .omit => 3
    | .insert => 4

def handleStateCode : HandleState → Byte
  | .empty => 0
  | .kept => 1
  | .oneShot => 2
  | .releasing => 3

def speechOutcomeCode : SpeechOutcome → Byte
  | .played => 1
  | .cut => 2
  | .failed => 3
  | .lost => 4
  | .cancelled => 5

def keyKindCode : KeyKind → Byte
  | .press => 0
  | .repeated => 1
  | .mash => 2

def faultKindCode : FaultKind → Byte
  | .engineTimeout => 1
  | .engineProtocol => 2
  | .keyOverrun => 3
  | .reportLoss => 4

def reportKindCode : Report → Byte
  | .wordResult _ => 1
  | .speechDone _ _ _ _ => 2
  | .lessonKey _ _ => 3
  | .seatEvent _ _ => 4

def seatEventCode : SeatEvent → Byte
  | .nudge => 1
  | .gone => 2
  | .mash => 3
  | .noPrompt => 4
  | .deckEmpty => 5
  | .childPause => 6
  | .childResume => 7

def channelCode : Channel → Byte
  | .left => 0
  | .right => 1
  | .both => 2

/-- A channel byte, 255 for none (R185). -/
def channelByte : Option Channel → Byte
  | some c => channelCode c
  | none => Config.filler

/-- A handle or word index byte, 255 for none (R185). -/
def indexByte {n : Nat} : Option (Fin n) → Byte
  | some i => byteOf i.val
  | none => Config.filler

/-- Seat field of a report record: 0 A, 1 B, 3 none. -/
def packedSeat : Option Seat → Nat
  | some .a => 0
  | some .b => 1
  | none => 3

/-- An entry-line symbol as one byte. -/
def symbolByte (x : Symbol) : Byte :=
  let origin : Nat := match x.origin with | .typed => 0 | .hinted => 1
  let mark : Nat := match x.mark with | .unchecked => 0 | .right => 1 | .wrong => 2
  byteOf (x.letter.toNat % 32 + 32 * origin + 64 * mark)

/-- Places 1 to 20 of an entry line, 0 beyond its count. -/
def symbolBytes (line : List Symbol) : List Byte :=
  (List.range Config.lineSize).map fun i => (line.map symbolByte).getD i 0

/-- Kind byte and value byte of a speech item. -/
def itemBytes : Item → List Byte
  | .letter c => [1, c]
  | .sound p => [2, p]
  | .pause u => [3, u]
  | .cue t => [4, t]
  | .spellTarget => [5, 0]
  | .spellEntry => [6, 0]

/-! ## Speech Port -/

/-- The four bytes of a FETCH reply. -/
def fetchReplyBytes : FetchReply → List Byte
  | .idle => [0, 0, 0, 0]
  | .start serial channel => [1, serial, channelCode channel, 0]
  | .item i serial => [2] ++ itemBytes i ++ [serial]
  | .ended cut serial => [3, flagByte cut, 0, serial]

/-- The one byte of a DONE reply: ACCEPTED. -/
def acceptedBytes : List Byte := [1]
/-- The one byte of a DONE reply: STALE. -/
def staleBytes : List Byte := [2]

/-! ## Report records -/

/-- Bytes 5 to 15 of a record. -/
def reportTail : Report → List Byte
  | .wordResult r =>
    [ byteOf r.word.val,
      byteOf (r.distance % 32 + 32 * (r.tries.toNat % 4)),
      byteOf (((r.firstError.map (·.position)).getD 0) % 32 + 32 * (errorCode r.firstError).toNat),
      r.hints, r.replays, r.overtyped, r.score, r.oldMastery, r.newMastery ] ++ bytes16 r.entryTime
  | .speechDone tag outcome _ channel => [tag, speechOutcomeCode outcome, channelByte channel] ++ List.replicate 8 0
  | .lessonKey _ code => [code] ++ List.replicate 10 0
  | .seatEvent _ event => [seatEventCode event] ++ List.replicate 10 0

/-- Byte 0 of a record: kind, seat, verdict. -/
def reportHead (r : Report) : Byte :=
  let seat : Nat :=
    match r with
    | .wordResult w => packedSeat (some w.seat)
    | .speechDone _ _ k _ => packedSeat k
    | .lessonKey m _ => packedSeat (some m)
    | .seatEvent k _ => packedSeat (some k)
  let verdict : Nat :=
    match r with
    | .wordResult w => (verdictCode w.verdict).toNat
    | .speechDone _ _ _ _ | .lessonKey _ _ | .seatEvent _ _ => 0
  byteOf ((reportKindCode r).toNat + 8 * seat + 32 * verdict)

/-- The 16 bytes of a record. -/
def recordBytes (r : Record) : List Byte := [reportHead r.body] ++ bytes32 r.stamp ++ reportTail r.body

/-- READ REPORTS's reply (R153). -/
def reportsReply (queue : List Record) : List Byte := byteOf queue.length :: queue.flatMap recordBytes

/-! ## Reply blocks of the Lesson Port -/

/-- IDENTIFY's reply (R181). -/
def identifyReply : List Byte :=
  bytes16 Config.partCode ++ [Config.revision, byteOf Config.wordCount, byteOf Config.pageCount,
    byteOf Config.handleCount, 2]

/-- SET TIMING's reply: the five values as stored (R183). -/
def timingReply (t : ScanTiming) (tResp : Word16) : List Byte :=
  [t.debounce, t.mashLimit] ++ bytes16 t.repeatDelay ++ bytes16 t.repeatRate ++ bytes16 tResp

/-- READ WORD's reply (R29). -/
def wordReply (r : WordRecord) : List Byte :=
  [flagByte r.enabled, byteOf r.letters.length, indexByte r.prompt, indexByte r.sentence]
    ++ (List.range Config.maxLetters).map fun i => r.letters.getD i 0

/-- READ PROGRESS's reply (R32). -/
def progressReply (p : Progress) : List Byte :=
  [p.mastery] ++ bytes16 p.due ++ [p.streak] ++ bytes16 p.seen ++ [verdictCode p.last]

/-- READ PHRASE INFO's reply (R110). -/
def phraseReply (r : HandleRecord) (free : Nat) : List Byte :=
  [handleStateCode r.state, byteOf r.itemCount, byteOf r.chain.length]
    ++ ((List.range 8).map fun i => (r.chain.map fun p => byteOf p.val).getD i Config.filler)
    ++ [byteOf r.references, byteOf free]

/-- The settings block (SET SEAT settings block). -/
def settingsBlock (x : Settings) (round : Word16) : List Byte :=
  [checkCode x.check, x.triesAllowed, x.gain, flagByte x.echo, flagByte x.bargeIn, flagByte x.autoNext,
    flagByte x.flush, x.idleTimeout, x.nudgeLimit] ++ bytes16 round

/-- A seat's state as shown in READ SEAT and in the image: PAUSED whatever the reason (R73). -/
def shownState : SeatState → ShownState
  | .off => .off
  | .idle => .idle
  | .present => .present
  | .entry => .entry
  | .review _ => .review
  | .paused _ _ => .paused

/-- The review byte: phase, feedback-pending, result-pending; 255 when absent. -/
def reviewByte (c : SeatContext) : Byte :=
  let flags (phase : ReviewPhase) : Byte :=
    byteOf ((if phase = .final then 1 else 0) + (if c.feedbackPending then 2 else 0) + (if c.holding then 4 else 0))
  match c.state with
  | .review phase => flags phase
  | .paused _ (.review phase) => flags phase
  | .paused _ .present | .paused _ .entry | .off | .idle | .present | .entry => Config.filler

/-- Pause reason and resume point, 255 each when absent. -/
def pauseBytes : SeatState → List Byte
  | .paused r p =>
    [reasonCode r, shownStateCode (match p with | .present => .present | .entry => .entry | .review _ => .review)]
  | .off | .idle | .present | .entry | .review _ => [Config.filler, Config.filler]

/-- The READ SEAT block: 54 bytes (R74). -/
def seatReply (c : SeatContext) (queue : List KeyEntry) : List Byte :=
  [shownStateCode (shownState c.state), reviewByte c] ++ pauseBytes c.state
    ++ [indexByte c.currentWord, indexByte c.previousWord] ++ bytes16 c.round
    ++ [c.tries, c.hints, c.replays, c.overtyped, c.nudges] ++ bytes16 c.entryTime
    ++ [flagByte c.holding, byteOf c.line.length] ++ symbolBytes c.line
    ++ [byteOf queue.length]
    ++ (match queue with
        | e :: _ => [e.code, keyKindCode e.kind] ++ bytes16 e.stamp
        | [] => [Config.filler, Config.filler, 0, 0])
    ++ [flagByte (queue.any (·.overrun))] ++ settingsBlock c.settings c.round

/-- READ FAULT's and CLEAR FAULT's reply: all 0 when the record is empty (R160). -/
def faultReply : Option FaultRecord → List Byte
  | some f => [1, faultKindCode f.kind, f.detail] ++ bytes32 f.stamp ++ [f.extra]
  | none => List.replicate 8 0

/-- The cause bits. -/
def causesByte (c : Causes) : Byte :=
  byteOf ((if c.fault then 1 else 0) + (if c.hold then 2 else 0) + (if c.level then 4 else 0) + (if c.aged then 8 else 0))

/-- SET CAUSES's reply (R157). -/
def setCausesReply (c : Causes) (trigger : Byte) (tAge : Word16) : List Byte :=
  [causesByte c, trigger] ++ bytes16 tAge

/-- READ COUNTERS's reply: the nine counters in the order of R162. -/
def countersReply (c : Counters) : List Byte :=
  bytes16 c.ghosts.a.value ++ bytes16 c.ghosts.b.value ++ bytes16 c.lostKeys.a.value ++ bytes16 c.lostKeys.b.value
    ++ bytes16 c.dropped.a.value ++ bytes16 c.dropped.b.value ++ bytes16 c.duplicates.value
    ++ bytes16 c.stales.value ++ bytes16 c.losses.value

/-! ## Display image -/

/-- The 26 bytes of one image (11_encodings.md, "Display image"). -/
def imageBytes (i : Image) : List Byte :=
  [i.generation, shownStateCode i.state, byteOf i.targetLength, verdictCode i.verdict, i.tries,
    byteOf i.symbols.length] ++ symbolBytes i.symbols

/-- The 52 bytes of the snapshot: seat A's image, then seat B's (R167). -/
def snapshotBytes (p : Pair Image) : List Byte := imageBytes p.a ++ imageBytes p.b

end Sys2Proof.Machine
end

