-- ==== Sys2Proof/Machine/Reports.lean ====
section
/-! DEFINITION. The report queue and the fault record (08_reports_attention_and_faults.md). -/
namespace Sys2Proof.Machine
open Sys2Proof

/-- A fault is raised (R159): it fills the empty record, or is counted while the record is held. -/
def raiseFault (kind : FaultKind) (detail : Byte) (s : State) : State :=
  let record : FaultRecord :=
    match s.reports.fault with
    | none => { kind := kind, detail := detail, stamp := s.clock, extra := 0 }
    | some f => { f with extra := saturatingSucc f.extra }
  { s with reports := { s.reports with fault := some record } }

/-- The head record's age, modulo 2^32 (R155). -/
def headAge (s : State) : Option Word32 := s.reports.queue.head?.map (s.clock - ·.stamp)

/-- The condition of AGED: T_age is not 0 and the queue's head is at least T_age old (R155). -/
def agedHolds (s : State) : Bool :=
  match headAge s with
  | some age => decide (s.reports.tAge ≠ 0) && decide (s.reports.tAge.toNat ≤ age.toNat)
  | none => false

/-- The causes are worked out afresh (R150, R154, R157); AGED is the only one stored (logs 10 and 29). -/
def refreshCauses (s : State) : State := { s with reports := { s.reports with agedPending := agedHolds s } }

/-- Whether the report queue has room (R150). -/
def reportRoom (s : State) : Bool := decide (s.reports.queue.length < Config.reportQueueSize)

/-- The queue takes a record: it joins the tail with its stamp (R150). -/
def takeRecord (body : Report) (s : State) : State :=
  refreshCauses
    { s with reports := { s.reports with queue := s.reports.queue ++ [{ stamp := s.clock, body := body }] } }

/-- A SPEECH_DONE, LESSON_KEY or SEAT_EVENT is offered: taken, or lost, counted and raised as a fault (R150, R151). -/
def offerRecord (body : Report) (s : State) : State :=
  if reportRoom s then takeRecord body s
  else
    raiseFault .reportLoss (reportKindCode body)
      { s with reports := { s.reports with losses := s.reports.losses.count } }

/-- A seat posts a SEAT_EVENT (R149). -/
def postEvent (k : Seat) (event : SeatEvent) (s : State) : State := offerRecord (.seatEvent k event) s

/-- Which causes are pending (R155). -/
def causesPending (s : State) : Causes where
  fault := s.reports.fault.isSome
  hold := s.seats.a.holding || s.seats.b.holding
  level := decide (s.reports.trigger.toNat ≤ s.reports.queue.length)
  aged := s.reports.agedPending

/-- The causes that are pending and enabled (R156). -/
def causesDriving (s : State) : Causes :=
  let p := causesPending s
  let e := s.reports.enables
  { fault := p.fault && e.fault, hold := p.hold && e.hold, level := p.level && e.level, aged := p.aged && e.aged }

/-- The code of the top cause: the highest-ranked pending and enabled one, 0 for NONE (R158). -/
def topCause (s : State) : Byte :=
  let d := causesDriving s
  if d.fault then 1 else if d.hold then 2 else if d.level then 3 else if d.aged then 4 else 0

/-- The nine counters as READ COUNTERS gives them (R162). -/
def counters (s : State) : Counters where
  ghosts := { a := s.matrices.a.ghosts, b := s.matrices.b.ghosts }
  lostKeys := s.lostKeys
  dropped := s.lanes.dropped
  duplicates := s.link.duplicates
  stales := s.link.stales
  losses := s.reports.losses

/-- Each counter is reduced by the value the reply gave for it, and keeps the counts the reply did not show (R162). -/
def reduceCounters (shown : Counters) (s : State) : State :=
  { s with
    matrices :=
      { a := { s.matrices.a with ghosts := .reduce shown.ghosts.a s.matrices.a.ghosts },
        b := { s.matrices.b with ghosts := .reduce shown.ghosts.b s.matrices.b.ghosts } },
    lostKeys := { a := .reduce shown.lostKeys.a s.lostKeys.a, b := .reduce shown.lostKeys.b s.lostKeys.b },
    lanes :=
      { s.lanes with
        dropped :=
          { a := .reduce shown.dropped.a s.lanes.dropped.a, b := .reduce shown.dropped.b s.lanes.dropped.b } },
    link :=
      { s.link with
        duplicates := .reduce shown.duplicates s.link.duplicates, stales := .reduce shown.stales s.link.stales },
    reports := { s.reports with losses := .reduce shown.losses s.reports.losses } }

end Sys2Proof.Machine
end

