-- ==== Sys2Proof/Machine/Phrases.lean ====
section
/-! DEFINITION. Pages, handles and references (05_phrase_memory.md). -/
namespace Sys2Proof.Machine
open Sys2Proof

/-- Pages a phrase needs: the item count divided by 16 and rounded up (R101). -/
def pagesNeeded (itemCount : Nat) : Nat := (itemCount + (Config.pageSize - 1)) / Config.pageSize

/-- Put a page into the free set, which is kept in rising order so that the lowest-numbered come first (R97). -/
def insertPage (p : Page) : List Page → List Page
  | [] => [p]
  | q :: rest => if p.val < q.val then p :: q :: rest else q :: insertPage p rest

/-- Every page of a chain rejoins the free set (R106). -/
def freePages (chain free : List Page) : List Page := chain.foldl (fun acc p => insertPage p acc) free

/-- Items 1 to 16 on the first page of the chain, 17 to 32 on the second, and so on (R101). -/
def storeItems : List Page → List Item → Vector (List Item) Config.pageCount → Vector (List Item) Config.pageCount
  | [], _, pages => pages
  | p :: ps, items, pages =>
    storeItems ps (items.drop Config.pageSize) (pages.set p.val (items.take Config.pageSize))

/-- WRITE PHRASE's effect (R101). -/
def storePhrase (h : Handle) (kind : HandleState) (items : List Item) (s : State) : State :=
  let n := pagesNeeded items.length
  let chain := s.phrases.free.take n
  { s with
    phrases :=
      { pages := storeItems chain items s.phrases.pages,
        free := s.phrases.free.drop n,
        handles :=
          s.phrases.handles.set h.val { state := kind, itemCount := items.length, chain := chain, references := 0 } } }

/-- A RELEASING handle with a reference count of 0 returns its pages and becomes EMPTY (R106); any other handle is left. -/
def returnPages (h : Handle) (s : State) : State :=
  let r := s.handle h
  if r.state = .releasing ∧ r.references = 0 then
    { s with
      phrases :=
        { s.phrases with
          free := freePages r.chain s.phrases.free,
          handles := s.phrases.handles.set h.val .reset } }
  else s

/-- FREE PHRASE's effect on a KEPT or ONE-SHOT handle (R105). -/
def freePhrase (h : Handle) (s : State) : State :=
  returnPages h (s.setHandle h { s.handle h with state := .releasing })

/-- A reference is taken on a KEPT or ONE-SHOT handle, refused on the others (R103). -/
def takeReference (h : Handle) (s : State) : Option State :=
  let r := s.handle h
  match r.state with
  | .kept => some (s.setHandle h { r with references := r.references + 1 })
  | .oneShot => some (s.setHandle h { r with references := r.references + 1, state := .releasing })
  | .empty | .releasing => none

/-- A reference is given up (R104). -/
def releaseReference (h : Handle) (s : State) : State :=
  let r := s.handle h
  returnPages h (s.setHandle h { r with references := r.references - 1 })

/-- Item k of a phrase, counting from 1: on the page at place k/16 rounded up of the chain, at place
((k - 1) mod 16) + 1 of that page (R102). -/
def phraseItem (h : Handle) (k : Nat) (s : State) : Option Item :=
  match (s.handle h).chain.drop ((k - 1) / Config.pageSize) with
  | p :: _ => (s.phrases.pages[p.val].drop ((k - 1) % Config.pageSize)).head?
  | [] => none

end Sys2Proof.Machine
end

