-- ==== Sys2Proof/Machine/Lanes.lean ====
section
/-! DEFINITION. Speech entries joining and leaving the lanes (06_speech_lanes.md). -/
namespace Sys2Proof.Machine
open Sys2Proof

/-- The entry in flight: the head of the in-flight utterance's lane (R112, R131). -/
def inFlightEntry (s : State) : Option SpeechEntry :=
  match s.link.inFlight with
  | some u => (s.lane u.lane).head?
  | none => none

/-- Write the entry in flight back to the head of its lane. -/
def setInFlightEntry (e : SpeechEntry) (s : State) : State :=
  match s.link.inFlight with
  | some u => s.setLane u.lane (e :: (s.lane u.lane).tail)
  | none => s

/-- The seat's speech entries: those in its two lanes whose seat field names it (R116). -/
def seatEntries (k : Seat) (s : State) : List SpeechEntry :=
  (s.lane (.prompt k) ++ s.lane (.echo k)).filter fun e => decide (e.seat = some k)

/-- A new entry joins the tail of a lane as QUEUED, cut-pending clear (R112, R114). -/
def joinLane (lane : LaneId) (content : Content) (origin : SpeechOrigin) (seat : Option Seat)
    (channel : Option Channel) (tag : Byte) (s : State) : State :=
  let e : SpeechEntry :=
    { id := s.nextEntryId, content := content, origin := origin, seat := seat, channel := channel, tag := tag,
      state := .queued, cutPending := false }
  { s.setLane lane (s.lane lane ++ [e]) with nextEntryId := s.nextEntryId + 1 }

/-- A drill phrase joins the seat's prompt lane and the number of its entry is given back; none if it is missing: no
handle, a handle that is not KEPT, or a full lane (R45, R109, R118). -/
def queueDrillPhrase (k : Seat) (origin : SpeechOrigin) (h : Option Handle) (s : State) : Option (Nat × State) :=
  match h with
  | none => none
  | some h =>
    if (s.handle h).state = .kept ∧ (s.lane (.prompt k)).length < Config.promptLaneSize then
      match takeReference h s with
      | some t => some (s.nextEntryId, joinLane (.prompt k) (.phrase h) origin (some k) none 0 t)
      | none => none
    else none

/-- A drill phrase whose entry nobody waits for: queued, or skipped as missing (R45). -/
def queueOrSkip (k : Seat) (origin : SpeechOrigin) (h : Option Handle) (s : State) : State :=
  match queueDrillPhrase k origin h s with
  | some (_, t) => t
  | none => s

/-- The echo lane less its oldest queued entry: the head, or the entry after it when the head is in flight (R119). -/
def dropOldestQueued : List SpeechEntry → List SpeechEntry
  | [] => []
  | e :: rest => if e.state = .queued then rest else e :: rest.tail

/-- A letter echo or cue joins the seat's echo lane; a full lane drops its oldest queued entry first (R119). -/
def queueEcho (k : Seat) (content : Content) (s : State) : State :=
  let room :=
    if (s.lane (.echo k)).length < Config.echoLaneSize then s
    else
      let t := s.setLane (.echo k) (dropOldestQueued (s.lane (.echo k)))
      { t with lanes := { t.lanes with dropped := t.lanes.dropped.set k (t.lanes.dropped.get k).count } }
  joinLane (.echo k) content .drillEcho (some k) none 0 room

/-- The BUMP cue, tone 2 (R99, R119). -/
def queueBump (k : Seat) (s : State) : State := queueEcho k (.cue 2) s

/-- The BUZZ cue, tone 1 (R99, R119). -/
def queueBuzz (k : Seat) (s : State) : State := queueEcho k (.cue 1) s

/-- Steps 1 and 2 of leaving a lane: the reference is given up, the entry is removed (R117). -/
def removeEntry (lane : LaneId) (e : SpeechEntry) (s : State) : State :=
  let released :=
    match e.content with
    | .phrase h => releaseReference h s
    | .letter _ | .cue _ => s
  released.setLane lane ((s.lane lane).eraseP fun x => decide (x.id = e.id))

/-- Steps 1 to 3 of leaving a lane with an outcome (R117): the entry is removed, and a tagged one offers its SPEECH_DONE.
Step 4, telling the seat, is its caller's. -/
def leaveLane (lane : LaneId) (outcome : SpeechOutcome) (e : SpeechEntry) (s : State) : State :=
  let removed := removeEntry lane e s
  if e.tag = 0 then removed else offerRecord (.speechDone e.tag outcome e.seat e.channel) removed

/-- Several entries leave one lane at one event, one after another, oldest first (R117); `told` is step 4. -/
def leaveEach (lane : LaneId) (outcome : SpeechOutcome) (told : SpeechEntry → State → State) (es : List SpeechEntry)
    (s : State) : State :=
  es.foldl (fun t e => told e (leaveLane lane outcome e t)) s

/-- The cut-pending mark: set on the entry in flight when it is STREAMING and one of those asked for (R113). -/
def markCutPending (which : SpeechEntry → Bool) (s : State) : State :=
  match inFlightEntry s with
  | some e => if e.state = .streaming && which e then setInFlightEntry { e with cutPending := true } s else s
  | none => s

/-- The entry in flight is orphaned when it is the seat's: its seat becomes none (R113, R127). -/
def orphanInFlight (k : Seat) (s : State) : State :=
  match inFlightEntry s with
  | some e => if e.seat = some k then setInFlightEntry { e with seat := none } s else s
  | none => s

/-- An entry made by the drill for the seat (R126). -/
def isDrillEntry (k : Seat) (e : SpeechEntry) : Bool := decide (e.seat = some k) && decide (e.origin ≠ .lessonSay)

/-- A DRILL_PROMPT of the seat (R125). -/
def isDrillPrompt (k : Seat) (e : SpeechEntry) : Bool :=
  decide (e.seat = some k) && decide (e.origin = .drillPrompt)

/-- The queued entries of a lane that are asked for, oldest first. -/
def queuedIn (lane : LaneId) (which : SpeechEntry → Bool) (s : State) : List SpeechEntry :=
  (s.lane lane).filter fun e => decide (e.state = .queued) && which e

/-- The head of a lane is queued. -/
def queuedHead : List SpeechEntry → Bool
  | e :: _ => decide (e.state = .queued)
  | [] => false

/-- A lane offers its head to the arbiter when the head is QUEUED; a seat's lanes only while it is not PAUSED (R115). -/
def laneOffers (lane : LaneId) (s : State) : Bool :=
  match lane with
  | .system => queuedHead (s.lane .system)
  | .prompt k => queuedHead (s.lane (.prompt k)) && !(s.seat k).isPaused
  | .echo k => queuedHead (s.lane (.echo k)) && !(s.seat k).isPaused

/-- One of the seat's lanes offers (R136). -/
def seatOffers (k : Seat) (s : State) : Bool := laneOffers (.echo k) s || laneOffers (.prompt k) s

end Sys2Proof.Machine
end

