-- ==== Sys2Proof/Machine/Flags.lean ====
section
/-! DEFINITION. The levels that follow the state at every event: ATTN (R156), SRQ (R132), DCHG (R169), and the idle
timer's conditions (R64). -/
namespace Sys2Proof.Machine
open Sys2Proof

/-- ATTN is asserted while at least one cause is both pending and enabled (R156). -/
def attnLevel (s : State) : Bool :=
  let d := causesDriving s
  d.fault || d.hold || d.level || d.aged

/-- SRQ is asserted while an accepted FETCH would be answered with something other than IDLE (R132). -/
def srqLevel (s : State) : Bool :=
  match s.link.inFlight with
  | some _ => match inFlightEntry s with | some e => decide (e.state = .streaming) | none => false
  | none => laneOffers .system s || seatOffers .a s || seatOffers .b s

/-- DCHG is asserted while either seat's live generation differs from its delivered one (R169). -/
def dchgLevel (s : State) : Bool :=
  decide (s.mirror.live.a.generation ≠ s.mirror.delivered.a) || decide (s.mirror.live.b.generation ≠ s.mirror.delivered.b)

/-- The three lines as the state has them. -/
def pinLevels (s : State) : Pins := { attn := attnLevel s, srq := srqLevel s, dchg := dchgLevel s }

/-- The lines follow the state. -/
def settlePins (s : State) : State := { s with pins := pinLevels s }

/-- The conditions under which the seat's idle timer runs (R64). -/
def idleTimerRuns (k : Seat) (s : State) : Bool :=
  (match (s.seat k).state with
    | .present | .entry => true
    | .off | .idle | .review _ | .paused _ _ => false)
  && decide ((s.seat k).settings.idleTimeout ≠ 0) && (seatEntries k s).isEmpty

/-- The idle timer starts from T_idle when its conditions begin to hold and stops when one of them fails (R64). Where they
hold before an event and after it, the time left stays (log 14), also when NEXT WORD presents a word without a prompt over
an abandoned one (R46, R47): the model's choice (log 31). -/
def idleTimerAfter (k : Seat) (s : State) : Option Nat :=
  if idleTimerRuns k s then
    match (s.seat k).idleTimer with
    | some left => some left
    | none => some (s.seat k).idleMs
  else none

/-- The seat's idle timer follows its conditions (R64). -/
def settleIdle (k : Seat) (s : State) : State := s.setSeat k { s.seat k with idleTimer := idleTimerAfter k s }

/-- What follows the state at the end of an event: both idle timers, then the lines (log 14). -/
def settle (s : State) : State := settlePins (settleIdle .b (settleIdle .a s))

end Sys2Proof.Machine
end

