-- ==== Sys2Proof/Machine/Mirror.lean ====
section
/-! DEFINITION. The live images (09_the_display_mirror.md). -/
namespace Sys2Proof.Machine
open Sys2Proof

/-- The image the seat would show with a given verdict; the generation is the mirror's (R73, R164). -/
def seatImage (k : Seat) (verdict : Verdict) (generation : Byte) (s : State) : Image where
  generation := generation
  state := shownState (s.seat k).state
  targetLength := (s.target k).length
  verdict := verdict
  tries := (s.seat k).tries
  symbols := (s.seat k).line

/-- The seat's mirror verdict. -/
def mirrorVerdict (k : Seat) (s : State) : Verdict := (s.mirror.live.get k).verdict

/-- One image write: the image takes the seat's fields, and its generation moves by 1 if at least one of them differs
(R164, R165). -/
def writeImage (k : Seat) (verdict : Verdict) (s : State) : State :=
  let old := s.mirror.live.get k
  let new := seatImage k verdict old.generation s
  let written := if new = old then old else { new with generation := old.generation + 1 }
  { s with mirror := { s.mirror with live := s.mirror.live.set k written } }

/-- One image write that keeps the verdict shown. -/
def writeImageKeepingVerdict (k : Seat) (s : State) : State := writeImage k (mirrorVerdict k s) s

end Sys2Proof.Machine
end

