-- ==== Sys2Proof/Machine/Judge.lean ====
section
/-! DEFINITION. The Judge (04_judging_an_attempt.md): pure arithmetic on an entry, a target and a few counts. -/
namespace Sys2Proof.Machine
open Sys2Proof

/-! ## Marks and repair before ENTER -/

/-- Letter number i, counting from 1. -/
def letterAt (letters : List Byte) (i : Nat) : Option Byte := if i = 0 then none else letters.drop (i - 1) |>.head?

/-- STRICT marking of a letter appended at a position (R76). -/
def strictMark (target : List Byte) (position : Nat) (letter : Byte) : Mark :=
  if letterAt target position = some letter then .right else .wrong

/-- The mark of a letter appended at a position (R75, R76). -/
def typedMark (check : CheckMode) (target : List Byte) (position : Nat) (letter : Byte) : Mark :=
  match check with
  | .whole => .unchecked
  | .strict => strictMark target position letter

/-- Length of the correct prefix (R77). -/
def correctPrefix : List Byte → List Byte → Nat
  | e :: es, t :: ts => if e = t then correctPrefix es ts + 1 else 0
  | [], _ => 0
  | _ :: _, [] => 0

/-! ## Stage 1: the distance -/

/-- The swap conditions of R80 at cell (i, j). -/
def swapsAt (entry target : List Byte) (i j : Nat) : Bool :=
  decide (2 ≤ i) && decide (2 ≤ j) && decide (letterAt entry i = letterAt target (j - 1))
    && decide (letterAt entry (i - 1) = letterAt target j)

/-- Whether entry letter i equals target letter j. -/
def lettersMatch (entry target : List Byte) (i j : Nat) : Bool := decide (letterAt entry i = letterAt target j)

/-- The least of the candidates of R80 for cell (i, j). -/
def cellValue (entry target : List Byte) (i j above left diagonal twoBack : Nat) : Nat :=
  let straight := min (min (above + 1) (left + 1)) (diagonal + if lettersMatch entry target i j then 0 else 1)
  if swapsAt entry target i j then min straight (twoBack + 1) else straight

/-- Cells (i, j), (i, j + 1) and so on, `todo` of them, from the two rows before and the cell to the left. -/
def fillRow (entry target : List Byte) (i : Nat) (twoRowsBack rowBefore : List Nat) : Nat → Nat → Nat → List Nat
  | 0, _, _ => []
  | todo + 1, j, left =>
    let v := cellValue entry target i j (rowBefore.getD j 0) left (rowBefore.getD (j - 1) 0) (twoRowsBack.getD (j - 2) 0)
    v :: fillRow entry target i twoRowsBack rowBefore todo (j + 1) v

/-- Rows i, i + 1 and so on, `todo` of them. -/
def fillRows (entry target : List Byte) : Nat → Nat → List Nat → List Nat → List (List Nat)
  | 0, _, _, _ => []
  | todo + 1, i, twoRowsBack, rowBefore =>
    let row := i :: fillRow entry target i twoRowsBack rowBefore target.length 1 i
    row :: fillRows entry target todo (i + 1) rowBefore row

/-- The distance table, rows 0 to n and columns 0 to m (R80). -/
def distanceTable (entry target : List Byte) : List (List Nat) :=
  let row0 := List.range (target.length + 1)
  row0 :: fillRows entry target entry.length 1 [] row0

/-- Cell (i, j) of a distance table. -/
def cell (table : List (List Nat)) (i j : Nat) : Nat := (table.getD i []).getD j 0

/-- The distance D (R80). -/
def distance (entry target : List Byte) : Nat := cell (distanceTable entry target) entry.length target.length

/-! ## Stage 2: traceback, first error, marks -/

/-- A step of the alignment, with the cell it starts from (R81). -/
inductive AlignStep
  | pair (i j : Nat)
  | swap (i j : Nat)
  | substitute (i j : Nat)
  | omit (i j : Nat)
  | insert (i j : Nat)
  deriving DecidableEq, Repr

/-- The first step of R81's list whose conditions hold at cell (i, j); insert, which is last, where no other does. -/
def chooseStep (entry target : List Byte) (table : List (List Nat)) (i j : Nat) : AlignStep :=
  let here := cell table i j
  if 1 ≤ i ∧ 1 ≤ j ∧ lettersMatch entry target i j = true ∧ here = cell table (i - 1) (j - 1) then .pair i j
  else if swapsAt entry target i j = true ∧ here = cell table (i - 2) (j - 2) + 1 then .swap i j
  else if 1 ≤ i ∧ 1 ≤ j ∧ here = cell table (i - 1) (j - 1) + 1 then .substitute i j
  else if 1 ≤ j ∧ here = cell table i (j - 1) + 1 then .omit i j
  else .insert i j

/-- Where a step moves to (R81). -/
def stepTarget : AlignStep → Nat × Nat
  | .pair i j => (i - 1, j - 1)
  | .swap i j => (i - 2, j - 2)
  | .substitute i j => (i - 1, j - 1)
  | .omit i j => (i, j - 1)
  | .insert i j => (i - 1, j)

/-- Steps back from cell (i, j) to (0, 0), put in front of those already taken, so that they read forward (R81). -/
def traceFrom (entry target : List Byte) (table : List (List Nat)) : Nat → Nat → Nat → List AlignStep → List AlignStep
  | 0, _, _, taken => taken
  | fuel + 1, i, j, taken =>
    if i = 0 ∧ j = 0 then taken
    else
      let step := chooseStep entry target table i j
      traceFrom entry target table fuel (stepTarget step).1 (stepTarget step).2 (step :: taken)

/-- The alignment in forward order; n + m steps back are enough (R81). -/
def alignment (entry target : List Byte) : List AlignStep :=
  traceFrom entry target (distanceTable entry target) (entry.length + target.length) entry.length target.length []

/-- The error a step stands for, if it is no match (R83). -/
def stepError : AlignStep → Option FirstError
  | .pair _ _ => none
  | .swap _ j => some { kind := .swap, position := j - 1 }
  | .substitute _ j => some { kind := .substitute, position := j }
  | .omit _ j => some { kind := .omit, position := j }
  | .insert _ j => some { kind := .insert, position := j + 1 }

/-- The first error: the earliest non-match step (R83). -/
def firstErrorOf (steps : List AlignStep) : Option FirstError := steps.findSome? stepError

/-- The entry letters a match step uses (R82). -/
def matchedPlaces (steps : List AlignStep) : List Nat :=
  steps.filterMap fun step =>
    match step with
    | .pair i _ => some i
    | .swap _ _ | .substitute _ _ | .omit _ _ | .insert _ _ => none

/-- The mark of every entry letter: RIGHT where a match uses it, WRONG elsewhere (R84). -/
def marksOf (entry target : List Byte) : List Mark :=
  let right := matchedPlaces (alignment entry target)
  (List.range entry.length).map fun i => if right.contains (i + 1) then .right else .wrong

/-- The marks written into the line; letters and origins stay (R84). -/
def applyMarks (line : List Symbol) (marks : List Mark) : List Symbol :=
  List.zipWith (fun x m => { x with mark := m }) line marks

/-! ## Stages 3 and 4 -/

/-- The verdict follows from D and H alone (R85). -/
def verdictOf (distance : Nat) (hints : Byte) : Verdict :=
  match distance with
  | 0 => if hints = 0 then .exact else .helped
  | 1 => .near
  | _ + 2 => .missed

/-- The score S, held within 0 to 100 (R86). -/
def scoreOf (distance hints tries : Nat) : Nat := 100 - (30 * distance + 15 * hints + 10 * (tries - 1))

/-! ## Stages 5 and 6 -/

/-- The aim T (R87). -/
def aimOf (score : Nat) : Nat := (score * 255 + 50) / 100

/-- The new mastery M' (R88); the division rounds toward minus infinity. -/
def newMasteryOf (old : Nat) (score gain : Nat) : Nat :=
  let delta : Int := (aimOf score : Int) - old
  (max 0 (min 255 ((old : Int) + (delta * gain + 4) / 8))).toNat

/-- The new streak (R89). -/
def newStreakOf (old : Byte) (verdict : Verdict) : Byte := if verdict = .exact then saturatingSucc old else 0

/-- The band of a mastery (R35). -/
def bandOf (mastery : Nat) : Nat := mastery / 64

/-- The interval in rounds (R90). -/
def intervalOf (table : Vector Byte 4) (verdict : Verdict) (mastery : Nat) (streak : Byte) : Nat :=
  let banded := (table.toList.getD (bandOf mastery) 0).toNat
  match verdict with
  | .exact => if 3 ≤ streak.toNat then 2 * banded else banded
  | .helped => banded
  | .near => (table.toList.getD 0 0).toNat
  | .missed | .none => 1

/-- The new due round, held at 65535 (R91). -/
def dueRoundOf (round : Word16) (interval : Nat) : Word16 := BitVec.ofNat 16 (min (round.toNat + interval) 65535)

/-- Whether the judgement is final: a retry is a NEAR or MISSED with tries below tries allowed (R59, R92). -/
def isFinal (verdict : Verdict) (tries triesAllowed : Byte) : Bool :=
  match verdict with
  | .near | .missed => !decide (tries.toNat < triesAllowed.toNat)
  | .exact | .helped | .none => true

/-! ## What a judgement hands back -/

/-- What every judgement hands back (R92). -/
structure Judgement where
  distance : Nat
  verdict : Verdict
  firstError : Option FirstError
  marks : List Mark
  score : Nat
  deriving DecidableEq, Repr

/-- Stages 1 to 4 for an entry against a target (R79). -/
def judge (entry target : List Byte) (hints tries : Byte) : Judgement :=
  let d := distance entry target
  { distance := d, verdict := verdictOf d hints, firstError := firstErrorOf (alignment entry target),
    marks := marksOf entry target, score := scoreOf d hints.toNat tries.toNat }

end Sys2Proof.Machine
end

