-- ==== Sys2Proof/Machine/Deck.lean ====
section
/-! DEFINITION. The pick of a next word and the record of a posted result (02_the_word_deck.md). -/
namespace Sys2Proof.Machine
open Sys2Proof

/-- The 128 indexes in order. -/
def wordIndexes : List WordIndex := (List.range Config.wordCount).map (Fin.ofNat Config.wordCount)

/-- The enabled words in index order. -/
def enabledWords (s : State) : List WordIndex := wordIndexes.filter fun w => (s.word w).enabled

/-- The candidates of a pick: the enabled words without the seat's previous word, or with it when it is the only one
(R37). A previous word that was disabled and enabled again (R28) is left out all the same: the model's choice (log 30). -/
def pickCandidates (k : Seat) (s : State) : List WordIndex :=
  let enabled := enabledWords s
  let others := enabled.filter fun w => decide ((s.seat k).previousWord ≠ some w)
  if others.isEmpty then enabled else others

/-- Word x comes before word y in the pick: lower due round, then lower mastery (R38). -/
def picksBefore (k : Seat) (s : State) (x y : WordIndex) : Bool :=
  let p := s.progress x k
  let q := s.progress y k
  decide (p.due.toNat < q.due.toNat) || (decide (p.due = q.due) && decide (p.mastery.toNat < q.mastery.toNat))

/-- The pick: the first candidate in index order that no other comes before, or none (R38, R39). -/
def pickWord (k : Seat) (s : State) : Option WordIndex :=
  match pickCandidates k s with
  | [] => none
  | w :: ws => some (ws.foldl (fun best x => if picksBefore k s x best then x else best) w)

/-- The deck writes the figures of a posted result into that seat's progress record on the word (R33). -/
def recordPosted (p : PendingResult) (s : State) : State :=
  let old := s.progress p.result.word p.result.seat
  s.setProgress p.result.word p.result.seat
    { mastery := p.result.newMastery, due := p.due, streak := p.streak, seen := saturatingSucc old.seen,
      last := p.result.verdict }

/-- LOAD WORD's effect (R27). -/
def storeWord (r : WordRequest) (s : State) : State :=
  s.setWord r.index
    { enabled := r.enabled, letters := r.letters, prompt := r.prompt, sentence := r.sentence,
      progress := if r.zeroProgress then { a := .reset, b := .reset } else (s.word r.index).progress }

end Sys2Proof.Machine
end

