-- ==== Sys2Proof/Machine/Seats.lean ====
section
/-! DEFINITION. The drill cycle of a seat (03_seats_and_the_drill_cycle.md). -/
namespace Sys2Proof.Machine
open Sys2Proof

/-! ## Presenting a word -/

/-- What a presentation clears, and the key queue when the seat's setting says so (R46). -/
def clearForWord (k : Seat) (w : WordIndex) (s : State) : State :=
  let cleared := s.mapSeat k fun c =>
    { c with currentWord := some w, line := [], tries := 1, hints := 0, replays := 0, overtyped := 0, nudges := 0,
             entryMs := 0, presentationPrompt := none }
  if (s.seat k).settings.flush then cleared.setKeyQueue k [] else cleared

/-- Presenting a word, steps 1 to 6 of R46, with its one image write (R165). Step 7, the queued keys, is `takeKeys`.
An idle timer that runs while the prompt is missing runs on (log 31). -/
def present (k : Seat) (w : WordIndex) (s : State) : State :=
  match queueDrillPhrase k .drillPrompt (s.word w).prompt (clearForWord k w s) with
  | some (id, t) =>
    writeImage k .none (t.mapSeat k fun c => { c with state := .present, presentationPrompt := some id })
  | none => postEvent k .noPrompt (writeImage k .none ((clearForWord k w s).mapSeat k fun c => { c with state := .entry }))

/-- Going to IDLE with no current word and an empty line; verdict and tallies stay (R49, R63). -/
def toIdle (k : Seat) (s : State) : State :=
  writeImageKeepingVerdict k (s.mapSeat k fun c => { c with state := .idle, currentWord := none, line := [] })

/-- The deck is asked for a word: it is presented, or the seat goes to IDLE and posts DECK_EMPTY (R39, R49, R63). -/
def presentPick (k : Seat) (s : State) : State :=
  match pickWord k s with
  | some w => present k w s
  | none => postEvent k .deckEmpty (toIdle k s)

/-! ## After judgement -/

/-- Posting: the pending result is offered; if the queue takes it, the deck writes its figures, the round moves, the
previous word is the current one and nothing is pending; if not, the seat is holding (R61, R33). -/
def tryPost (k : Seat) (s : State) : State :=
  match (s.seat k).pendingResult with
  | none => s
  | some p =>
    if reportRoom s then
      (recordPosted p (takeRecord (.wordResult p.result) s)).mapSeat k fun c =>
        { c with round := saturatingSucc c.round, previousWord := c.currentWord, pendingResult := none }
    else s

/-- A seat leaves REVIEW(FINAL) when both flags are clear (R63). -/
def leaveReviewIfDone (k : Seat) (s : State) : State :=
  let c := s.seat k
  if c.state = .review .final ∧ c.reviewFeedback = none ∧ c.pendingResult = none then
    if c.settings.autoNext then presentPick k s else toIdle k s
  else s

/-- The retry is carried out (R60). -/
def carryOutRetry (k : Seat) (s : State) : State :=
  writeImageKeepingVerdict k
    (s.mapSeat k fun c => { c with state := .entry, line := [], tries := c.tries + 1, reviewFeedback := none })

/-- The retry of REVIEW(RETRY) is carried out when no feedback is pending (R60, R69). -/
def retryIfDone (k : Seat) (s : State) : State :=
  let c := s.seat k
  if c.state = .review .retry ∧ c.reviewFeedback = none then carryOutRetry k s else s

/-! ## Completions -/

/-- The presentation prompt completes (R47): PRESENT becomes ENTRY, and so does a resume point of PRESENT. -/
def promptDone (k : Seat) (s : State) : State :=
  match (s.seat k).state with
  | .present =>
    writeImageKeepingVerdict k (s.mapSeat k fun c => { c with presentationPrompt := none, state := .entry })
  | .paused r .present => s.mapSeat k fun c => { c with presentationPrompt := none, state := .paused r .entry }
  | .off | .idle | .entry | .review _ | .paused _ .entry | .paused _ (.review _) =>
    s.mapSeat k fun c => { c with presentationPrompt := none }

/-- The review feedback completes (R60, R63); in PAUSED its consequence waits (R70). -/
def feedbackDone (k : Seat) (s : State) : State :=
  leaveReviewIfDone k (retryIfDone k (s.mapSeat k fun c => { c with reviewFeedback := none }))

/-- The seat named by an entry that has left its lane is told of it (R72, R117 step 4). The keys it may then take are
`takeKeys`. -/
def tellSeat (e : SpeechEntry) (s : State) : State :=
  match e.seat with
  | none => s
  | some k =>
    if (s.seat k).presentationPrompt = some e.id then promptDone k s
    else if (s.seat k).reviewFeedback = some e.id then feedbackDone k s
    else s

/-- Barge-in (R52, R125). -/
def bargeIn (k : Seat) (s : State) : State :=
  markCutPending (isDrillPrompt k)
    (leaveEach (.prompt k) .cut tellSeat (queuedIn (.prompt k) (isDrillPrompt k) s) s)

/-! ## Taking keys -/

/-- Barge-in when the seat's setting asks for it (R52). -/
def bargeInIfOn (k : Seat) (s : State) : State := if (s.seat k).settings.bargeIn then bargeIn k s else s

/-- LETTER (R53, R76). -/
def takeLetter (k : Seat) (letter : Byte) (s : State) : State :=
  let t := bargeInIfOn k s
  let c := t.seat k
  if c.line.length < Config.lineSize then
    let mark := typedMark c.settings.check (t.target k) (c.line.length + 1) letter
    let appended := t.mapSeat k fun c =>
      { c with line := c.line ++ [{ letter := letter, origin := .typed, mark := mark }], state := .entry }
    let echoed :=
      if mark = .wrong then queueBuzz k appended
      else if c.settings.echo then queueEcho k (.letter letter) appended
      else appended
    writeImageKeepingVerdict k echoed
  else
    writeImageKeepingVerdict k
      (queueBump k (t.mapSeat k fun c => { c with overtyped := saturatingSucc c.overtyped, state := .entry }))

/-- ERASE, pressed or repeated (R54). -/
def takeErase (k : Seat) (s : State) : State :=
  if (s.seat k).line.isEmpty then queueBump k s
  else writeImageKeepingVerdict k (s.mapSeat k fun c => { c with line := c.line.dropLast })

/-- HINT (R55): the line is cut back to its correct prefix, and the next target letter is given or BUMP queued (R78). -/
def takeHint (k : Seat) (s : State) : State :=
  let t := bargeInIfOn k s
  let p := correctPrefix (t.attempt k) (t.target k)
  let repaired :=
    match (t.target k).drop p with
    | letter :: _ =>
      let given := t.mapSeat k fun c =>
        { c with line := c.line.take p ++ [{ letter := letter, origin := .hinted, mark := .right }],
                 hints := saturatingSucc c.hints, state := .entry }
      if (t.seat k).settings.echo then queueEcho k (.letter letter) given else given
    | [] => queueBump k (t.mapSeat k fun c => { c with line := c.line.take p, state := .entry })
  writeImageKeepingVerdict k repaired

/-- Prompt and sentence of the current word are queued again; the flag says whether at least one was (R56). -/
def replayWord (k : Seat) (r : WordRecord) (s : State) : Bool × State :=
  match queueDrillPhrase k .drillPrompt r.prompt s with
  | some (_, t) => (true, queueOrSkip k .drillPrompt r.sentence t)
  | none =>
    match queueDrillPhrase k .drillPrompt r.sentence s with
    | some (_, t) => (true, t)
    | none => (false, s)

/-- SAYAGAIN (R56). -/
def takeSayAgain (k : Seat) (s : State) : State :=
  if (seatEntries k s).any (isDrillPrompt k) then s
  else
    match (s.seat k).currentWord with
    | none => s
    | some w =>
      match replayWord k (s.word w) s with
      | (true, t) => t.mapSeat k fun c => { c with replays := saturatingSucc c.replays }
      | (false, t) => queueBump k t

/-- A MASH entry (R58); slot 6 of the feedback table (R123). -/
def takeMash (k : Seat) (s : State) : State :=
  postEvent k .mash (queueOrSkip k .drillFeedback s.lanes.feedback[6] s)

/-- The feedback slot a final verdict names (R59, R123). -/
def feedbackSlot : Verdict → Fin 8
  | .exact => 0
  | .helped => 1
  | .near => 2
  | .missed | .none => 3

/-- The WORD_RESULT of a final judgement and the progress figures its posting writes (R92, R93). -/
def resultOf (k : Seat) (w : WordIndex) (j : Judgement) (s : State) : PendingResult :=
  let c := s.seat k
  let p := s.progress w k
  let mastery := byteOf (newMasteryOf p.mastery.toNat j.score c.settings.gain.toNat)
  let streak := newStreakOf p.streak j.verdict
  { result :=
      { seat := k, word := w, verdict := j.verdict, distance := j.distance, firstError := j.firstError,
        hints := c.hints, tries := c.tries, replays := c.replays, overtyped := c.overtyped, score := byteOf j.score,
        oldMastery := p.mastery, newMastery := mastery, entryTime := c.entryTime },
    streak := streak, due := dueRoundOf c.round (intervalOf s.deck.intervals j.verdict mastery.toNat streak) }

/-- REVIEW(RETRY) is entered; slot 4 of the feedback table (R59, R123). -/
def enterRetry (k : Seat) (verdict : Verdict) (s : State) : State :=
  let enter (feedback : Option Nat) (t : State) : State :=
    writeImage k verdict (t.mapSeat k fun c => { c with state := .review .retry, reviewFeedback := feedback })
  match queueDrillPhrase k .drillFeedback s.lanes.feedback[4] s with
  | some (id, t) => enter (some id) t
  | none => carryOutRetry k (enter none s)

/-- REVIEW(FINAL) is entered, and the result is offered at once (R59, R61). -/
def enterFinal (k : Seat) (w : WordIndex) (j : Judgement) (s : State) : State :=
  let enter (feedback : Option Nat) (t : State) : State :=
    writeImage k j.verdict
      (t.mapSeat k fun c =>
        { c with state := .review .final, reviewFeedback := feedback, pendingResult := some (resultOf k w j s) })
  let entered :=
    match queueDrillPhrase k .drillFeedback s.lanes.feedback[feedbackSlot j.verdict] s with
    | some (id, t) => enter (some id) t
    | none => enter none s
  leaveReviewIfDone k (tryPost k entered)

/-- ENTER (R57, R59). -/
def takeEnter (k : Seat) (s : State) : State :=
  let c := s.seat k
  if c.line.isEmpty then queueBump k s
  else
    match c.currentWord with
    | none => s
    | some w =>
      let j := judge (s.attempt k) (s.target k) c.hints c.tries
      let marked := s.mapSeat k fun c => { c with line := applyMarks c.line j.marks, idleTimer := none }
      if isFinal j.verdict c.tries c.settings.triesAllowed then enterFinal k w j marked
      else enterRetry k j.verdict marked

/-- A key taken in PRESENT or ENTRY: nudge count and idle timer first (R51), then the key's own effect. -/
def takeKey (k : Seat) (e : KeyEntry) (s : State) : State :=
  let t := s.mapSeat k fun c => { c with nudges := 0, idleTimer := c.idleTimer.map fun _ => c.idleMs }
  if e.kind = .mash then takeMash k t
  else if isLetterCode e.code then takeLetter k e.code t
  else if e.code = keyErase then takeErase k t
  else if e.code = keyHint then takeHint k t
  else if e.code = keySayAgain then takeSayAgain k t
  else if e.code = keyEnter then takeEnter k t
  else t

/-- Up to so many key entries are taken from the head: acted on in PRESENT and ENTRY, discarded in IDLE, left elsewhere
(R50). -/
def takeKeysUpTo : Nat → Seat → State → State
  | 0, _, s => s
  | n + 1, k, s =>
    match s.keyQueue k, (s.seat k).state with
    | e :: rest, .present | e :: rest, .entry => takeKeysUpTo n k (takeKey k e (s.setKeyQueue k rest))
    | _ :: rest, .idle => takeKeysUpTo n k (s.setKeyQueue k rest)
    | _, _ => s

/-- Queued keys are taken in order, as R50 gives; nothing joins the queue meanwhile. -/
def takeKeys (k : Seat) (s : State) : State := takeKeysUpTo (s.keyQueue k).length k s

/-! ## Pausing and resuming -/

/-- The resume point that a state gives, in the states that can be paused (R67, R68). -/
def resumePointOf : SeatState → Option ResumePoint
  | .present => some .present
  | .entry => some .entry
  | .review phase => some (.review phase)
  | .off | .idle | .paused _ _ => none

/-- The state a resume point leads to (R69). -/
def resumedState : ResumePoint → SeatState
  | .present => .present
  | .entry => .entry
  | .review phase => .review phase

/-- The seat pauses (R65, R67, R68); a seat that is not in a word stays as it is. -/
def pause (k : Seat) (reason : PauseReason) (s : State) : State :=
  match resumePointOf (s.seat k).state with
  | some point =>
    writeImageKeepingVerdict k (s.mapSeat k fun c => { c with state := .paused reason point, idleTimer := none })
  | none => s

/-- A resume from any pause (R69). -/
def resume (k : Seat) (s : State) : State :=
  match (s.seat k).state with
  | .paused _ point =>
    let t := writeImageKeepingVerdict k (s.mapSeat k fun c => { c with state := resumedState point, nudges := 0 })
    takeKeys k (leaveReviewIfDone k (retryIfDone k t))
  | .off | .idle | .present | .entry | .review _ => s

/-- PAUSE, handed over by the scanner (R67). CHILD_RESUME is posted after all of the resume (log 15). -/
def pauseKey (k : Seat) (s : State) : State :=
  match (s.seat k).state with
  | .present | .entry | .review _ => postEvent k .childPause (pause k .child s)
  | .paused .child _ | .paused .gone _ => postEvent k .childResume (resume k s)
  | .paused .lesson _ | .idle | .off => s

/-- PAUSE SEAT carried out (R68). -/
def pauseForLesson (k : Seat) (s : State) : State :=
  match (s.seat k).state with
  | .paused _ point => s.mapSeat k fun c => { c with state := .paused .lesson point }
  | .off | .idle | .present | .entry | .review _ => pause k .lesson s

/-! ## Starting, giving a word, stopping -/

/-- START SEAT carried out (R43). -/
def startSeat (k : Seat) (s : State) : State :=
  writeImageKeepingVerdict k (s.mapSeat k fun c => { c with state := .idle })

/-- The current word is abandoned (R49, R126): its drill entries leave as CUT, and what the next presentation or IDLE
clears is cleared. The presentation prompt is none before the entries leave (log 12). -/
def abandon (k : Seat) (s : State) : State :=
  let t := s.mapSeat k fun c => { c with presentationPrompt := none, nudges := 0, entryMs := 0 }
  let u := leaveEach (.prompt k) .cut tellSeat (queuedIn (.prompt k) (isDrillEntry k) t) t
  let v := leaveEach (.echo k) .cut tellSeat (queuedIn (.echo k) (isDrillEntry k) u) u
  markCutPending (isDrillEntry k) v

/-- NEXT WORD carried out (R48, R49). -/
def nextWord (k : Seat) (index : Option WordIndex) (s : State) : State :=
  match (s.seat k).state, index with
  | .present, some w | .entry, some w => takeKeys k (present k w (abandon k s))
  | .present, none | .entry, none => takeKeys k (presentPick k (abandon k s))
  | _, some w => takeKeys k (present k w s)
  | _, none =>
    match pickWord k s with
    | some w => takeKeys k (present k w s)
    | none => postEvent k .deckEmpty s

/-- STOP SEAT carried out (R44, R127): round and settings stay, everything else of the context is as after reset. -/
def stopSeat (k : Seat) (s : State) : State :=
  let own (e : SpeechEntry) : Bool := decide (e.seat = some k)
  let off := (s.mapSeat k fun c => { SeatContext.reset with round := c.round, settings := c.settings }).setKeyQueue k []
  let shown := writeImage k .none off
  let t := leaveEach (.prompt k) .cancelled tellSeat (queuedIn (.prompt k) own shown) shown
  let u := leaveEach (.echo k) .cancelled tellSeat (queuedIn (.echo k) own t) t
  orphanInFlight k (markCutPending own u)

end Sys2Proof.Machine
end

