-- ==== Sys2Proof/Machine/Scanner.lean ====
section
/-! DEFINITION. The key scanner: debouncing, ghosts, mashing, press events and routing
(01_keyboards_and_the_key_scanner.md). -/
namespace Sys2Proof.Machine
open Sys2Proof

/-- A position of a matrix (R2). -/
abbrev Position := Fin Config.keyCount

/-! ## Routing -/

/-- The newest entry's overrun flag is set (R19). -/
def flagNewest : List KeyEntry → List KeyEntry
  | [] => []
  | [e] => [{ e with overrun := true }]
  | e :: f :: rest => e :: flagNewest (f :: rest)

/-- An entry is lost to a full key queue (R19). -/
def loseKey (k : Seat) (s : State) : State :=
  raiseFault .keyOverrun (seatCode k)
    { s.setKeyQueue k (flagNewest (s.keyQueue k)) with
      lostKeys := s.lostKeys.set k (s.lostKeys.get k).count }

/-- An entry is routed to its seat with the stamp of this moment: discarded in OFF (R15) and in a pause by the child or
the lesson (R50), lost when the queue is full (R19), consumed to wake a seat paused as GONE (R71), or joined and taken as
the state allows (R18, R50). -/
def routeEntry (k : Seat) (code : Byte) (kind : KeyKind) (s : State) : State :=
  let joined (s : State) : State :=
    s.setKeyQueue k (s.keyQueue k ++ [{ code := code, kind := kind, stamp := stamp16 s.clock, overrun := false }])
  match (s.seat k).state with
  | .off | .paused .child _ | .paused .lesson _ => s
  | .paused .gone _ =>
    if (s.keyQueue k).length < Config.keyQueueSize then postEvent k .childResume (resume k s) else loseKey k s
  | .idle | .present | .entry | .review _ =>
    if (s.keyQueue k).length < Config.keyQueueSize then takeKeys k (joined s) else loseKey k s

/-- A press event is routed by its code (R15, R16, R17). -/
def routePress (m : Seat) (code : Byte) (s : State) : State :=
  if code = keyPause then pauseKey m s
  else if isLessonKey code then offerRecord (.lessonKey m code) s
  else routeEntry m code .press s

/-- A press event is produced; ERASE starts the matrix's repeat (R12, R13). -/
def pressEvent (m : Seat) (p : Position) (code : Byte) (s : State) : State :=
  let started :=
    if code = keyErase then
      s.setMatrix m { s.matrix m with repeating := some { position := p, left := s.timing.repeatDelay.toNat } }
    else s
  routePress m code started

/-! ## Keys -/

/-- Held is DOWN or BLOCKED (R10). -/
def isHeld : KeyState → Bool
  | .down | .blocked _ => true
  | .up | .settlingDown _ | .settlingUp _ => false

/-- The number of held keys of a matrix (R10). -/
def heldCount (x : MatrixState) : Nat := x.keys.toList.countP isHeld

/-- Whether the key at a row and a column, counted from 0, is held. -/
def heldAt (x : MatrixState) (row column : Nat) : Bool := isHeld (x.keys.toList.getD (row * 8 + column) .up)

/-- A ghost suspect: three other corners of a rectangle are held (R9). -/
def ghostSuspect (x : MatrixState) (p : Position) : Bool :=
  let row := p.val / 8
  let column := p.val % 8
  (List.range 8).any fun r =>
    decide (r ≠ row) && heldAt x r column &&
      (List.range 8).any fun c => decide (c ≠ column) && heldAt x row c && heldAt x r c

/-- What one reading does to a key: a plain change, the end of SETTLING-DOWN, or a bounce back to DOWN. -/
inductive Reading
  | becomes (key : KeyState)
  | completes
  | bounces
  deriving DecidableEq, Repr

/-- The next state of a key for a reading and T_db (R6 to R8). -/
def readKey (debounce : Nat) (pressed : Bool) : KeyState → Reading
  | .up => .becomes (if pressed then .settlingDown 1 else .up)
  | .settlingDown n =>
    if pressed then (if debounce ≤ n + 1 then .completes else .becomes (.settlingDown (n + 1))) else .becomes .up
  | .down => .becomes (if pressed then .down else .settlingUp 1)
  | .settlingUp n =>
    if pressed then .bounces else .becomes (if debounce ≤ n + 1 then .up else .settlingUp (n + 1))
  | .blocked n =>
    if pressed then .becomes (.blocked 0) else .becomes (if debounce ≤ n + 1 then .up else .blocked (n + 1))

/-- The mash check of a key that has just become held (R10). -/
def mashCheck (m : Seat) (s : State) : State :=
  let x := s.matrix m
  if x.condition = .normal ∧ s.timing.mashLimit.toNat < heldCount x then
    routeEntry m 0 .mash (s.setMatrix m { x with condition := .mashed, repeating := none })
  else s

/-- A key completes SETTLING-DOWN (R6): the ghost check (R9), the end of any repeat (R14), the mash check (R10), and a
press event for a mapped key that is DOWN on a NORMAL matrix (R12). -/
def completeKey (m : Seat) (p : Position) (s : State) : State :=
  let x := s.matrix m
  let ghost := !x.diodes && ghostSuspect x p
  let key : KeyState := if ghost then .blocked 0 else .down
  let ghosts := if ghost then x.ghosts.count else x.ghosts
  let t := mashCheck m (s.setMatrix m { x with keys := x.keys.set p.val key, ghosts := ghosts, repeating := none })
  let code := x.keymap[p.val]
  if ghost = false ∧ (t.matrix m).condition = .normal ∧ code ≠ 0 then pressEvent m p code t else t

/-- The repeat after a key has changed: it ends when the repeating key leaves DOWN (R14). -/
def repeatAfter (x : MatrixState) (p : Position) (key : KeyState) : Option Repeat :=
  match x.repeating with
  | some r => if r.position = p ∧ key ≠ .down then none else some r
  | none => none

/-- One position of a scan pass (R2). -/
def scanKey (m : Seat) (p : Position) (pressed : Bool) (s : State) : State :=
  let x := s.matrix m
  match readKey s.timing.debounce.toNat pressed x.keys[p.val] with
  | .becomes key => s.setMatrix m { x with keys := x.keys.set p.val key, repeating := repeatAfter x p key }
  | .completes => completeKey m p s
  | .bounces => mashCheck m (s.setMatrix m { x with keys := x.keys.set p.val .down })

/-! ## Scan passes -/

/-- Position number p of a pass, none beyond 63. -/
def scanPosition (m : Seat) (readings : BitVec 64) (p : Nat) (s : State) : State :=
  if h : p < Config.keyCount then scanKey m ⟨p, h⟩ (readings.getLsbD p) s else s

/-- The positions from p on, to the end of the pass. -/
def scanRest (m : Seat) (readings : BitVec 64) (p : Nat) (s : State) : State :=
  ((List.range Config.keyCount).drop p).foldl (fun t q => scanPosition m readings q t) s

/-- The end of a pass: a MASHED matrix whose keys are all UP returns to NORMAL (R11). -/
def endPass (m : Seat) (s : State) : State :=
  let x := s.matrix m
  if x.condition = .mashed ∧ x.keys.toList.all (fun key => decide (key = .up)) then
    s.setMatrix m { x with condition := .normal }
  else s

/-- The two passes of a millisecond, positions taken in the given order and each matrix's own in number order; p and q
are the next positions of matrix A and matrix B (R2, log 1). -/
def scanPasses (readA readB : BitVec 64) : List Seat → Nat → Nat → State → State
  | [], p, q, s => endPass .b (endPass .a (scanRest .b readB q (scanRest .a readA p s)))
  | .a :: order, p, q, s => scanPasses readA readB order (p + 1) q (scanPosition .a readA p s)
  | .b :: order, p, q, s => scanPasses readA readB order p (q + 1) (scanPosition .b readB q s)

end Sys2Proof.Machine
end

