-- ==== Sys2Proof/Machine/Link.lean ====
section
/-! DEFINITION. The speech link: FETCH, DONE, the start arbiter, streaming, completion (07_the_speech_link.md). -/
namespace Sys2Proof.Machine
open Sys2Proof

/-! ## Completion -/

/-- The in-flight utterance completes with an outcome (R145); the seat that is told takes its queued keys (R50). -/
def complete (outcome : SpeechOutcome) (s : State) : State :=
  match s.link.inFlight with
  | none => s
  | some u =>
    let idle : State := { s with link := { s.link with inFlight := none, responseTimer := none } }
    match s.lane u.lane with
    | [] => idle
    | e :: _ =>
      let told := tellSeat e (leaveLane u.lane outcome e idle)
      match e.seat with
      | some k => takeKeys k told
      | none => told

/-! ## Starting an utterance -/

/-- Within a seat, the echo lane's head before the prompt lane's (R136). -/
def seatLane (k : Seat) (s : State) : LaneId := if laneOffers (.echo k) s then .echo k else .prompt k

/-- The start arbiter's choice (R136). -/
def arbiterLane (s : State) : Option LaneId :=
  let pointed := s.link.pointer
  if laneOffers .system s then some .system
  else if seatOffers pointed s then some (seatLane pointed s)
  else if seatOffers (otherSeat pointed) s then some (seatLane (otherSeat pointed) s)
  else none

/-- The channel of an entry at its START (R137); a system entry keeps the one its SAY gave. -/
def startChannel (e : SpeechEntry) (s : State) : Channel :=
  match e.seat with
  | none => e.channel.getD .both
  | some k =>
    if (s.seat (otherSeat k)).outOfOff then (match k with | .a => .left | .b => .right) else .both

/-- START of the head of a lane (R135). -/
def startUtterance (lane : LaneId) (s : State) : FetchReply × State :=
  match s.lane lane with
  | [] => (.idle, s)
  | e :: rest =>
    let channel := startChannel e s
    let t := s.setLane lane ({ e with state := .streaming, channel := some channel } :: rest)
    (.start s.link.serial channel,
      { t with
        link :=
          { t.link with
            inFlight := some { lane := lane, serial := s.link.serial, position := 1, expansion := none },
            serial := s.link.serial + 1,
            pointer := (match e.seat with | some k => otherSeat k | none => s.link.pointer),
            responseTimer := some s.link.tResp.toNat } })

/-! ## Streaming -/

/-- An entry's item count (R139). -/
def entryItemCount (e : SpeechEntry) (s : State) : Nat :=
  match e.content with
  | .phrase h => (s.handle h).itemCount
  | .letter _ | .cue _ => 1

/-- An entry's item at a position, counting from 1 (R139). -/
def entryItem (e : SpeechEntry) (position : Nat) (s : State) : Option Item :=
  match e.content with
  | .phrase h => phraseItem h position s
  | .letter c => some (.letter c)
  | .cue t => some (.cue t)

/-- The letters a spell item reads for an entry; none for any other item (R140). -/
def spellLetters (e : SpeechEntry) (item : Item) (s : State) : Option (List Byte) :=
  match item with
  | .spellTarget => some (match e.seat with | some k => s.target k | none => [])
  | .spellEntry => some (match e.seat with | some k => s.attempt k | none => [])
  | .letter _ | .sound _ | .pause _ | .cue _ => none

/-- The next item of an expansion: letters with a PAUSE of 20 between them, 2k - 1 items for k letters (R140). -/
def expansionItem (x : Expansion) : Option Item :=
  if x.place % 2 = 1 then (if x.place + 1 < 2 * x.letters.length then some (.pause 20) else none)
  else (x.letters.drop (x.place / 2)).head?.map .letter

/-- The next item from a position on, with the position and the expansion it leaves: spell items that expand to nothing
are passed over (R138 case 3, R140). The count bounds the positions looked at. -/
def nextItem (e : SpeechEntry) (s : State) : Nat → Nat → Option (Item × Nat × Option Expansion)
  | 0, _ => none
  | more + 1, position =>
    if entryItemCount e s < position then none
    else
      match entryItem e position s with
      | none => none
      | some item =>
        match spellLetters e item s with
        | none => some (item, position + 1, none)
        | some [] => nextItem e s more (position + 1)
        | some (c :: cs) => some (.letter c, position + 1, some { letters := c :: cs, place := 1 })

/-- The reply of an item or an END: the utterance as it now stands, the timer restarted (R138). -/
def streamTo (u : Utterance) (reply : FetchReply) (s : State) : FetchReply × State :=
  (reply, { s with link := { s.link with inFlight := some u, responseTimer := some s.link.tResp.toNat } })

/-- The utterance becomes DRAINING with an END (R138 cases 1 and 4). -/
def endUtterance (u : Utterance) (e : SpeechEntry) (cut : Bool) (s : State) : FetchReply × State :=
  streamTo u (.ended cut u.serial) (setInFlightEntry { e with state := .draining } s)

/-- An accepted FETCH that finds the utterance STREAMING (R138). -/
def streamItem (u : Utterance) (e : SpeechEntry) (s : State) : FetchReply × State :=
  if e.cutPending then endUtterance u e true s
  else
    match u.expansion.bind fun x => (expansionItem x).map fun item => (item, x) with
    | some (item, x) =>
      streamTo { u with expansion := some { x with place := x.place + 1 } } (.item item u.serial) s
    | none =>
      let count := entryItemCount e s
      match nextItem e s (count + 1) u.position with
      | some (item, position, expansion) =>
        streamTo { u with position := position, expansion := expansion } (.item item u.serial) s
      | none => endUtterance { u with position := count + 1, expansion := none } e false s

/-- An accepted FETCH is served (R135, R138, R141). -/
def serveFetch (s : State) : FetchReply × State :=
  match s.link.inFlight with
  | none =>
    match arbiterLane s with
    | some lane => startUtterance lane s
    | none => (.idle, s)
  | some u =>
    match inFlightEntry s with
    | some e => if e.state = .streaming then streamItem u e s else (.idle, s)
    | none => (.idle, s)

/-! ## The two requests -/

/-- A FETCH is a duplicate: not fresh, and the bit of the last accepted one (R133). -/
def isDuplicate (flags : Byte) (s : State) : Bool :=
  !flags.getLsbD 1 && decide (s.link.sequence = some (flags.getLsbD 0))

/-- A duplicate FETCH: the last reply again, counted (R133). -/
def repeatReply (s : State) : State :=
  { s with
    link :=
      { s.link with
        fetched := true, duplicates := s.link.duplicates.count, reply := fetchReplyBytes s.link.lastReply } }

/-- What the fresh flag does before the FETCH is served (R134). -/
def startAfresh (s : State) : State :=
  let t := complete .lost s
  { t with link := { t.link with sequence := none } }

/-- An accepted FETCH (R133). -/
def acceptFetch (flags : Byte) (s : State) : State :=
  let t := if flags.getLsbD 1 then startAfresh s else s
  let (reply, u) := serveFetch { t with link := { t.link with fetched := true, sequence := some (flags.getLsbD 0) } }
  { u with link := { u.link with lastReply := reply, reply := fetchReplyBytes reply } }

/-- FETCH: bit 0 of the flags is the sequence bit, bit 1 the fresh flag, the rest is ignored (R133, R134, R186). -/
def takeFetch (flags : Byte) (s : State) : State :=
  if isDuplicate flags s then repeatReply s else acceptFetch flags s

/-- What the Speech Port sends after the last request byte, byte by byte: the reply, then filler (R130, R186). -/
def State.speechByte (s : State) (n : Nat) : Byte := replyByte s.link.reply n

/-- An ENGINE_PROTOCOL fault: its detail is the serial of the most recent START (R143). -/
def protocolFault (s : State) : State := raiseFault .engineProtocol (s.link.serial - 1) s

/-- A DONE answered STALE (R142, R147). -/
def staleDone (s : State) : State :=
  { s with link := { s.link with stales := s.link.stales.count, reply := staleBytes } }

/-- A DONE accepted for the utterance in flight (R142). -/
def acceptDone (outcome : SpeechOutcome) (s : State) : State :=
  let t := complete outcome s
  { t with link := { t.link with reply := acceptedBytes } }

/-- The serial of the utterance in flight. -/
def inFlightSerial (s : State) : Option Byte := s.link.inFlight.map (·.serial)

/-- DONE (R142, R143). A DONE that is wrong in two ways raises one fault (log 13). -/
def takeDone (serial outcome : Byte) (s : State) : State :=
  match readDoneOutcome outcome with
  | some o =>
    if s.link.fetched = false then protocolFault (staleDone s)
    else if inFlightSerial s = some serial then acceptDone o s
    else staleDone s
  | none => protocolFault (staleDone s)

/-- A request code that is neither FETCH nor DONE (R143): the STALE byte and the fault, nothing else. -/
def takeUnknownRequest (s : State) : State :=
  protocolFault { s with link := { s.link with reply := staleBytes } }

end Sys2Proof.Machine
end

