-- ==== Sys2Proof/Machine/Clock.lean ====
section
/-! DEFINITION. The lesson clock, the timers and the reset. -/
namespace Sys2Proof.Machine
open Sys2Proof

/-! ## Expiries -/

/-- The ERASE repeat expires: a REPEAT entry, and the timer starts again at RepeatRate (R13). -/
def fireRepeat (m : Seat) (s : State) : State :=
  let x := s.matrix m
  match x.repeating with
  | some r =>
    if r.left = 0 then
      routeEntry m keyErase .repeated
        (s.setMatrix m { x with repeating := some { r with left := s.timing.repeatRate.toNat } })
    else s
  | none => s

/-- The nudge of R65: slot 5 of the feedback table (R123); a missing phrase starts the timer again. -/
def nudge (k : Seat) (s : State) : State :=
  let queued :=
    match queueDrillPhrase k .drillFeedback s.lanes.feedback[5] s with
    | some (_, t) => t.mapSeat k fun c => { c with idleTimer := none }
    | none => s.mapSeat k fun c => { c with idleTimer := some c.idleMs }
  (postEvent k .nudge queued).mapSeat k fun c => { c with nudges := c.nudges + 1 }

/-- The idle timer expires (R65). -/
def fireIdle (k : Seat) (s : State) : State :=
  let c := s.seat k
  if c.idleTimer = some 0 ∧ (c.state = .present ∨ c.state = .entry) then
    if c.nudges.toNat < c.settings.nudgeLimit.toNat then nudge k s else postEvent k .gone (pause k .gone s)
  else s

/-- The response timer expires: the utterance completes LOST and an ENGINE_TIMEOUT is raised with its serial (R144). The
flag puts the fault before the completion (R159, log 5). -/
def fireResponse (timeoutFirst : Bool) (s : State) : State :=
  match s.link.inFlight, s.link.responseTimer with
  | some u, some 0 =>
    if timeoutFirst then complete .lost (raiseFault .engineTimeout u.serial s)
    else raiseFault .engineTimeout u.serial (complete .lost s)
  | _, _ => s

/-- The head's age has reached T_age: AGED becomes pending (R155). It stays so when the age wraps at 2^32 milliseconds, until
the causes are worked out afresh: the model's choice (log 29). -/
def fireAged (s : State) : State :=
  if agedHolds s then { s with reports := { s.reports with agedPending := true } } else s

/-- A timer's expiry, if it is due (log 2). -/
def fire : Timer → State → State
  | .repeating m, s => fireRepeat m s
  | .idle k, s => fireIdle k s
  | .response timeoutFirst, s => fireResponse timeoutFirst s
  | .aged, s => fireAged s

/-- Expiries are taken one after another, each an event of its own. -/
def fireEach (timers : List Timer) (s : State) : State := timers.foldl (fun t x => settle (fire x t)) s

/-- The order in which expiries still due at the next tick are taken (log 3). -/
def overdueOrder : List Timer :=
  [.repeating .a, .repeating .b, .idle .a, .idle .b, .response true, .aged]

/-! ## The tick -/

/-- The repeat timer counts while its key is DOWN and the matrix is NORMAL (R13). -/
def countRepeat (x : MatrixState) : MatrixState :=
  match x.repeating with
  | some r =>
    if x.keys[r.position.val] = .down ∧ x.condition = .normal then
      { x with repeating := some { r with left := r.left - 1 } }
    else x
  | none => x

/-- The entry time runs in PRESENT, ENTRY and REVIEW(RETRY) (R66). -/
def countsEntryTime : SeatState → Bool
  | .present | .entry | .review .retry => true
  | .off | .idle | .review .final | .paused _ _ => false

/-- A millisecond passes for a seat (R64, R66). -/
def countSeat (c : SeatContext) : SeatContext :=
  { c with
    idleTimer := countDown c.idleTimer,
    entryMs := if countsEntryTime c.state then c.entryMs + 1 else c.entryMs }

/-- The lesson clock moves by 1 and every running timer with it (R1). -/
def advanceClock (s : State) : State :=
  { s with
    clock := s.clock + 1,
    matrices := { a := countRepeat s.matrices.a, b := countRepeat s.matrices.b },
    seats := { a := countSeat s.seats.a, b := countSeat s.seats.b },
    link := { s.link with responseTimer := countDown s.link.responseTimer } }

/-- LESSON_CLOCK_TICK: what is overdue, the clock and its timers, the expiries of this millisecond that come before the
scan passes, the two scan passes (R1, R2, logs 1 and 3). -/
def tick (readA readB : BitVec 64) (before : List Timer) (order : List Seat) (s : State) : State :=
  settle (scanPasses readA readB order 0 0 (fireEach before (advanceClock (fireEach overdueOrder s))))

/-! ## Reset -/

/-- A read in progress is abandoned; what it had sent came from the snapshot as it was (R170). -/
def abandonRead (m : Mirror) : ReadState :=
  match m.read with
  | .reading start => .abandoned start m.snapshot
  | .none => .none
  | .abandoned start before => .abandoned start before

/-- The part after a reset (R182, R184, R170): reset values, with the commands still waiting, LCS as it is, and a read
on the Display Port abandoned. -/
def afterReset (s : State) : State :=
  { State.reset with
    port := { LessonPort.reset with lcsLow := s.port.lcsLow },
    mirror := { Mirror.reset with read := abandonRead s.mirror },
    pending := s.pending }

end Sys2Proof.Machine
end

