-- ==== Sys2Proof/Machine/LessonPort.lean ====
section
/-! DEFINITION. The Lesson Port: frames, the check of a request at its last byte, and what its frame end carries out
(10_the_lesson_port.md, and each command's entry). -/
namespace Sys2Proof.Machine
open Sys2Proof

/-! ## The check and the reply at the last request byte (R178) -/

/-- What the bytes of a request come to when they have arrived: not yet whole (R174), refused with UNKNOWN, LENGTH or
RANGE, or well formed with its reply. -/
inductive Check
  | incomplete
  | refused (outcome : LessonOutcome)
  | accepted (reply : List Byte)
  deriving DecidableEq, Repr

/-- RANGE unless the content reads; the reply is made from what was read. -/
def checkContent {α : Type} (content : Option α) (reply : α → List Byte) : Check :=
  match content with
  | some x => .accepted (reply x)
  | none => .refused .range

/-- No reply bytes. -/
def noReply {α : Type} (_ : α) : List Byte := []

/-- The values of SET TIMING pulled into range (R5, R183). -/
def clampTiming (debounce mashLimit : Byte) (repeatDelay repeatRate : Word16) : ScanTiming where
  debounce := pullInto 2 30 debounce
  mashLimit := pullInto 3 8 mashLimit
  repeatDelay := pullInto 200 1000 repeatDelay
  repeatRate := pullInto 50 500 repeatRate

/-- T_resp pulled into range (R144). -/
def clampTResp (x : Word16) : Word16 := pullInto 100 5000 x

/-- The interval table pulled into range (R34). -/
def clampIntervals (e0 e1 e2 e3 : Byte) : Vector Byte 4 :=
  #v[pullInto 1 255 e0, pullInto 1 255 e1, pullInto 1 255 e2, pullInto 1 255 e3]

/-- The trigger level pulled into range (R157). -/
def clampTrigger (x : Byte) : Byte := pullInto 1 16 x

/-- The feedback table after a SET FEEDBACK (R124). -/
def feedbackAfter (change : Option (Fin 8 × Option Handle)) (table : Vector (Option Handle) 8) :
    Vector (Option Handle) 8 :=
  match change with
  | some (i, h) => table.set i.val h
  | none => table

/-- LOAD WORD's length field, then its parameters (R176, R174, R26). -/
def checkLoadWord (length : TwoBytes) (params : List Byte) : Check :=
  let n := (wordOf length).toNat
  if n < 5 then .refused .length
  else if params.length < n then .incomplete
  else checkContent (readWordRequest (params.take n)) noReply

/-- WRITE PHRASE's length field, then its parameters (R176, R174, R101). -/
def checkWritePhrase (length : TwoBytes) (params : List Byte) : Check :=
  let n := (wordOf length).toNat
  if n < 2 ∨ (n - 2) % 2 = 1 then .refused .length
  else if params.length < n then .incomplete
  else checkContent (readPhraseRequest (params.take n)) noReply

/-- LOAD KEYMAP is complete with 64 codes (R174, R4). -/
def checkLoadKeymap (matrix diodes : Byte) (codes : List Byte) : Check :=
  if codes.length < Config.keyCount then .incomplete
  else checkContent (readKeymapRequest matrix diodes codes) noReply

/-- SAY's first step (R120). -/
def readSayRequest (handle target channel : Byte) : Option (Handle × SayTarget) :=
  match readHandleByte handle, readSayTarget target channel with
  | some h, some t => some (h, t)
  | _, _ => none

/-- NEXT WORD's first step: the seat, and a word that is enabled or none (R48, log 24). -/
def readNextRequest (seat index : Byte) (s : State) : Option (Seat × Option WordIndex) :=
  match readSeatByte seat, readWordOrNone index with
  | some k, some (some w) => if (s.word w).enabled then some (k, some w) else none
  | some k, some none => some (k, none)
  | _, _ => none

/-- READ PROGRESS's word and seat (R32). -/
def readProgressTarget (index seat : Byte) : Option (WordIndex × Seat) :=
  match readWordByte index, readSeatByte seat with
  | some w, some k => some (w, k)
  | _, _ => none

/-- READ CAUSE's reply: top cause, pending set, count (R158). -/
def causeReply (s : State) : List Byte :=
  [topCause s, causesByte (causesPending s), byteOf s.reports.queue.length]

/-- The check of a request when its last byte arrives, and its reply from the state at that moment (R178). Steps that
are no request of the Lesson Port never complete one. -/
def checkRequest (i : Instr) (s : State) : Check :=
  match i with
  | .unknownCommand _ code => if Config.lessonCodes.contains code then .incomplete else .refused .unknown
  | .identify _ => .accepted identifyReply
  | .resetPart _ => .accepted []
  | .setTiming _ debounce mashLimit repeatDelay repeatRate tResp =>
    .accepted
      (timingReply (clampTiming debounce mashLimit (wordOf repeatDelay) (wordOf repeatRate)) (clampTResp (wordOf tResp)))
  | .loadKeymap _ matrix diodes codes => checkLoadKeymap matrix diodes codes
  | .loadWord _ length params => checkLoadWord length params
  | .readWord _ index => checkContent (readWordByte index) fun w => wordReply (s.word w)
  | .setProgress _ index seat mastery due streak seen verdict =>
    checkContent (readProgressRequest index seat mastery due streak seen verdict) noReply
  | .readProgress _ index seat =>
    checkContent (readProgressTarget index seat) fun p => progressReply (s.progress p.1 p.2)
  | .setIntervals _ e0 e1 e2 e3 => .accepted (clampIntervals e0 e1 e2 e3).toList
  | .setFeedback _ slot handle =>
    checkContent (readFeedbackRequest slot handle) fun change =>
      (feedbackAfter change s.lanes.feedback).toList.map indexByte
  | .writePhrase _ length params => checkWritePhrase length params
  | .freePhrase _ handle => checkContent (readHandleByte handle) noReply
  | .readPhraseInfo _ handle =>
    checkContent (readHandleByte handle) fun h => phraseReply (s.handle h) s.phrases.free.length
  | .say _ handle target channel _ => checkContent (readSayRequest handle target channel) noReply
  | .setSeat _ seat check tries gain echo bargeIn autoNext flush idleTimeout nudgeLimit round =>
    checkContent (readSettingsRequest seat check tries gain echo bargeIn autoNext flush idleTimeout nudgeLimit)
      fun r => settingsBlock r.2 (wordOf round)
  | .startSeat _ seat => checkContent (readSeatByte seat) noReply
  | .nextWord _ seat index => checkContent (readNextRequest seat index s) noReply
  | .pauseSeat _ seat => checkContent (readSeatByte seat) noReply
  | .resumeSeat _ seat => checkContent (readSeatByte seat) noReply
  | .stopSeat _ seat => checkContent (readSeatByte seat) noReply
  | .readSeat _ seat => checkContent (readSeatByte seat) fun k => seatReply (s.seat k) (s.keyQueue k)
  | .readReports _ _ _ => .accepted (reportsReply s.reports.queue)
  | .readCause _ => .accepted (causeReply s)
  | .setCauses _ enables trigger tAge =>
    .accepted (setCausesReply (readCauses enables) (clampTrigger trigger) (pullTAge (wordOf tAge)))
  | .readFault _ => .accepted (faultReply s.reports.fault)
  | .clearFault _ => .accepted (faultReply s.reports.fault)
  | .readCounters _ _ => .accepted (countersReply (counters s))
  | .powerOnReset | .lessonClockTick .. | .repeatExpiry _ | .idleTimerExpiry _ | .statusByte | .shortFrame | .agedExpiry
  | .fetch _ | .engineDone .. | .unknownSpeechRequest _ | .responseTimerExpiry _ | .displayPointerWrite ..
  | .displayReadBegin _ | .displayReadEnd _ => .incomplete

/-! ## What each command carries out at its frame end (R179) -/

/-- The outcome of a frame and the state its command leaves. -/
abbrev Carried := LessonOutcome × State

/-- Carried out on the content that was checked; content that does not read is RANGE. -/
def carryContent {α : Type} (content : Option α) (s : State) (act : α → Carried) : Carried :=
  match content with
  | some x => act x
  | none => (.range, s)

/-- SET TIMING (R183). -/
def carrySetTiming (debounce mashLimit : Byte) (repeatDelay repeatRate tResp : TwoBytes) (s : State) : Carried :=
  (.ok,
    { s with
      timing := clampTiming debounce mashLimit (wordOf repeatDelay) (wordOf repeatRate),
      link := { s.link with tResp := clampTResp (wordOf tResp) } })

/-- LOAD KEYMAP (R4). -/
def carryLoadKeymap (matrix diodes : Byte) (codes : List Byte) (s : State) : Carried :=
  carryContent (readKeymapRequest matrix diodes codes) s fun r =>
    (.ok, s.setMatrix r.1 { s.matrix r.1 with keymap := r.2.2, diodes := r.2.1, repeating := none })

/-- LOAD WORD (R25, R27). -/
def carryLoadWord (length : TwoBytes) (params : List Byte) (s : State) : Carried :=
  carryContent (readWordRequest (params.take (wordOf length).toNat)) s fun r =>
    if s.inUse r.index then (.inUse, s) else (.ok, storeWord r s)

/-- SET PROGRESS (R30, R31). -/
def carrySetProgress (index seat : Byte) (mastery due : TwoBytes) (streak : Byte) (seen : TwoBytes) (verdict : Byte)
    (s : State) : Carried :=
  carryContent (readProgressRequest index seat mastery due streak seen verdict) s fun r =>
    if s.inUse r.1 then (.inUse, s) else (.ok, s.setProgress r.1 r.2.1 r.2.2)

/-- SET INTERVALS (R34). -/
def carrySetIntervals (e0 e1 e2 e3 : Byte) (s : State) : Carried :=
  (.ok, { s with deck := { s.deck with intervals := clampIntervals e0 e1 e2 e3 } })

/-- SET FEEDBACK (R124). -/
def carrySetFeedback (slot handle : Byte) (s : State) : Carried :=
  carryContent (readFeedbackRequest slot handle) s fun change =>
    (.ok, { s with lanes := { s.lanes with feedback := feedbackAfter change s.lanes.feedback } })

/-- WRITE PHRASE, steps 2 and 3 and its effect (R101). -/
def carryWritePhrase (length : TwoBytes) (params : List Byte) (s : State) : Carried :=
  carryContent (readPhraseRequest (params.take (wordOf length).toNat)) s fun r =>
    if (s.handle r.1).state ≠ .empty then (.inUse, s)
    else if s.phrases.free.length < pagesNeeded r.2.2.length then (.noSpace, s)
    else (.ok, storePhrase r.1 r.2.1 r.2.2 s)

/-- FREE PHRASE (R105). -/
def carryFreePhrase (handle : Byte) (s : State) : Carried :=
  carryContent (readHandleByte handle) s fun h =>
    match (s.handle h).state with
    | .kept | .oneShot => (.ok, freePhrase h s)
    | .empty | .releasing => (.state, s)

/-- SAY to the system lane: steps 2 and 3 (R120) and its effect (R121). -/
def saySystem (h : Handle) (channel : Channel) (tag : Byte) (s : State) : Carried :=
  match takeReference h s with
  | none => (.state, s)
  | some t =>
    if (s.lane .system).length < Config.systemLaneSize then
      (.ok, settle (joinLane .system (.phrase h) .lessonSay none (some channel) tag t))
    else (.noSpace, s)

/-- SAY to a seat: steps 2 and 3 (R120), with the drill's two places kept (R118), and its effect (R121). -/
def saySeat (h : Handle) (k : Seat) (tag : Byte) (s : State) : Carried :=
  if (s.seat k).outOfOff then
    match takeReference h s with
    | none => (.state, s)
    | some t =>
      if (s.lane (.prompt k)).length < Config.promptLaneSize - Config.drillReserve then
        (.ok, settle (joinLane (.prompt k) (.phrase h) .lessonSay (some k) none tag t))
      else (.noSpace, s)
  else (.state, s)

/-- SAY (R120, R121). -/
def carrySay (handle target channel tag : Byte) (s : State) : Carried :=
  carryContent (readSayRequest handle target channel) s fun r =>
    match r.2 with
    | .system c => saySystem r.1 c tag s
    | .seat k => saySeat r.1 k tag s

/-- SET SEAT (R42): in OFF or IDLE only. -/
def carrySetSeat (request : Option (Seat × Settings)) (round : TwoBytes) (s : State) : Carried :=
  carryContent request s fun r =>
    match (s.seat r.1).state with
    | .off | .idle => (.ok, s.mapSeat r.1 fun c => { c with settings := r.2, round := wordOf round })
    | .present | .entry | .review _ | .paused _ _ => (.state, s)

/-- START SEAT (R43): in OFF only. -/
def carryStartSeat (seat : Byte) (s : State) : Carried :=
  carryContent (readSeatByte seat) s fun k =>
    match (s.seat k).state with
    | .off => (.ok, settle (startSeat k s))
    | .idle | .present | .entry | .review _ | .paused _ _ => (.state, s)

/-- NEXT WORD (R48, R49): refused in OFF, REVIEW and PAUSED. The enabled flag was looked at with the content; only a
frame can change it, and this is the only frame there is (log 24). -/
def carryNextWord (seat index : Byte) (s : State) : Carried :=
  carryContent (readNextRequest seat index s) s fun r =>
    match (s.seat r.1).state with
    | .idle | .present | .entry => (.ok, settle (nextWord r.1 r.2 s))
    | .off | .review _ | .paused _ _ => (.state, s)

/-- PAUSE SEAT (R68): refused in OFF and IDLE. -/
def carryPauseSeat (seat : Byte) (s : State) : Carried :=
  carryContent (readSeatByte seat) s fun k =>
    match (s.seat k).state with
    | .present | .entry | .review _ | .paused _ _ => (.ok, settle (pauseForLesson k s))
    | .off | .idle => (.state, s)

/-- RESUME SEAT (R69): in PAUSED only. -/
def carryResumeSeat (seat : Byte) (s : State) : Carried :=
  carryContent (readSeatByte seat) s fun k =>
    match (s.seat k).state with
    | .paused _ _ => (.ok, settle (resume k s))
    | .off | .idle | .present | .entry | .review _ => (.state, s)

/-- STOP SEAT (R44): refused in OFF. -/
def carryStopSeat (seat : Byte) (s : State) : Carried :=
  carryContent (readSeatByte seat) s fun k =>
    match (s.seat k).state with
    | .off => (.state, s)
    | .idle | .present | .entry | .review _ | .paused _ _ => (.ok, settle (stopSeat k s))

/-- A seat whose result has been taken leaves REVIEW if nothing else keeps it there, and takes its keys (R63, R50). -/
def leaveThenTake (k : Seat) (s : State) : State := takeKeys k (leaveReviewIfDone k s)

/-- A holding seat is told of room: it offers its result again, and leaves REVIEW when that is done (R152, R61, R63). -/
def offerThenLeave (k : Seat) (s : State) : State := leaveThenTake k (tryPost k s)

/-- The count has fallen: both seats are told (R152). The order is the model's operand (log 4): who offers first; whether
it leaves REVIEW before the other offers, unless its records would take the last slot, since two free slots take both
results (R152); else who leaves first once both have offered, where R150 lets the records of either be first. -/
def tellRoom (room : RoomOrder) (s : State) : State :=
  let x := room.first
  let y := otherSeat room.first
  if (s.seat x).holding && (s.seat y).holding then
    let between := offerThenLeave x s
    if room.leaveBetween && reportRoom between then offerThenLeave y between
    else leaveThenTake (otherSeat room.leavesFirst) (leaveThenTake room.leavesFirst (tryPost y (tryPost x s)))
  else if (s.seat x).holding then offerThenLeave x s
  else if (s.seat y).holding then offerThenLeave y s
  else s

/-- How many records were clocked out whole, of those the reply showed (R154). -/
def wholeRecords (clocked shown : Nat) : Nat := min shown ((clocked - 1) / Config.recordSize)

/-- A step of another block that meets the frame end, as its own row gives it (R62, log 4). -/
def meet : Meeting → State → State
  | .tick readA readB before order, s => tick readA readB before order s
  | .expiry timer, s => settle (fire timer s)
  | .fetch flags, s => settle (takeFetch flags s)
  | .engineDone serial outcome, s => settle (takeDone serial outcome s)

/-- The steps that meet the frame end, one after another. -/
def meetEach (met : List Meeting) (s : State) : State := met.foldl (fun t x => meet x t) s

/-- READ REPORTS at its frame end (R154). The records of the steps that meet it reach the freed slots before a holding seat
does, which then may keep holding (R62, R150); a step that comes after the seats' offers is the queue's next command. That
the met steps are an operand of this row is the model's choice (log 4). -/
def carryReadReports (clocked : Nat) (room : RoomOrder) (shown : Shown) (s : State) : Carried :=
  let r := wholeRecords clocked shown.reportCount
  if r = 0 then (.ok, meetEach room.met s)
  else
    let dropped := refreshCauses { s with reports := { s.reports with queue := s.reports.queue.drop r } }
    (.ok, settle (tellRoom room (meetEach room.met dropped)))

/-- SET CAUSES (R157). -/
def carrySetCauses (enables trigger : Byte) (tAge : TwoBytes) (s : State) : Carried :=
  (.ok,
    settle (refreshCauses
      { s with
        reports :=
          { s.reports with enables := readCauses enables, trigger := clampTrigger trigger, tAge := pullTAge (wordOf tAge) } }))

/-- CLEAR FAULT (R161). -/
def carryClearFault (s : State) : Carried := (.ok, settle { s with reports := { s.reports with fault := none } })

/-- READ COUNTERS: bit 0 of the flag byte asks for the clear (R162). -/
def carryReadCounters (flags : Byte) (shown : Shown) (s : State) : Carried :=
  (.ok, if flags.getLsbD 0 then reduceCounters shown.counters s else s)

/-- A complete request that was not refused is carried out at the end of its frame (R179). -/
def carryOut (i : Instr) (shown : Shown) (s : State) : Carried :=
  match i with
  | .resetPart _ => (.ok, afterReset s)
  | .setTiming _ debounce mashLimit repeatDelay repeatRate tResp =>
    carrySetTiming debounce mashLimit repeatDelay repeatRate tResp s
  | .loadKeymap _ matrix diodes codes => carryLoadKeymap matrix diodes codes s
  | .loadWord _ length params => carryLoadWord length params s
  | .setProgress _ index seat mastery due streak seen verdict =>
    carrySetProgress index seat mastery due streak seen verdict s
  | .setIntervals _ e0 e1 e2 e3 => carrySetIntervals e0 e1 e2 e3 s
  | .setFeedback _ slot handle => carrySetFeedback slot handle s
  | .writePhrase _ length params => carryWritePhrase length params s
  | .freePhrase _ handle => carryFreePhrase handle s
  | .say _ handle target channel tag => carrySay handle target channel tag s
  | .setSeat _ seat check tries gain echo bargeIn autoNext flush idleTimeout nudgeLimit round =>
    carrySetSeat (readSettingsRequest seat check tries gain echo bargeIn autoNext flush idleTimeout nudgeLimit) round s
  | .startSeat _ seat => carryStartSeat seat s
  | .nextWord _ seat index => carryNextWord seat index s
  | .pauseSeat _ seat => carryPauseSeat seat s
  | .resumeSeat _ seat => carryResumeSeat seat s
  | .stopSeat _ seat => carryStopSeat seat s
  | .readReports _ clocked room => carryReadReports clocked room shown s
  | .setCauses _ enables trigger tAge => carrySetCauses enables trigger tAge s
  | .clearFault _ => carryClearFault s
  | .readCounters _ flags => carryReadCounters flags shown s
  | .unknownCommand .. | .identify _ | .readWord .. | .readProgress .. | .readPhraseInfo .. | .readSeat .. | .readCause _
  | .readFault _ | .powerOnReset | .lessonClockTick .. | .repeatExpiry _ | .idleTimerExpiry _ | .statusByte
  | .shortFrame | .agedExpiry | .fetch _ | .engineDone .. | .unknownSpeechRequest _ | .responseTimerExpiry _
  | .displayPointerWrite .. | .displayReadBegin _ | .displayReadEnd _ => (.ok, s)

/-! ## Frames -/

/-- The status byte from the state at the fall of LCS (R172). -/
def statusByte (s : State) : Byte :=
  byteOf ((outcomeCode s.port.lastOutcome).toNat + (if s.pins.attn then 16 else 0)
    + (if s.reports.fault.isSome then 32 else 0) + (if (s.seat .a).outOfOff then 64 else 0)
    + (if (s.seat .b).outOfOff then 128 else 0))

/-- LCS falls: the status byte is made up and a frame begins; nothing while LCS is low already (R171, R172). -/
def openFrame (s : State) : State :=
  if s.port.lcsLow then s
  else { s with port := { s.port with lcsLow := true, frame := .receiving, status := statusByte s, reply := [] } }

/-- What the reply shows that the frame end needs (R154, R162). -/
def shownNow (s : State) : Shown := { reportCount := s.reports.queue.length, counters := counters s }

/-- The request's bytes arrive (R174, R178); after a complete request, and outside a frame, nothing is read (R171). An
incomplete request leaves the decoder as it was, so that a second request row in the same open frame, an order no master
makes, is read from its own code byte: the model's choice (log 18). -/
def receive (i : Instr) (s : State) : State :=
  if s.port.frame = .receiving then
    match checkRequest i s with
    | .incomplete => s
    | .refused o => { s with port := { s.port with frame := .complete i (some o) (shownNow s), reply := [] } }
    | .accepted reply => { s with port := { s.port with frame := .complete i none (shownNow s), reply := reply } }
  else s

/-- LCS is high, and the decoder waits for its next fall. -/
def closePort (s : State) : State := { s with port := { s.port with lcsLow := false, frame := .waiting } }

/-- What the Lesson Port sends after the last request byte, byte by byte: the reply, then filler; filler alone after a
refusal with UNKNOWN, LENGTH or RANGE and in a SHORT frame (R178, R185). -/
def State.lessonByte (s : State) (n : Nat) : Byte := replyByte s.port.reply n

/-- The frame's outcome becomes the last outcome (R173). -/
def recordOutcome (o : LessonOutcome) (s : State) : State := { s with port := { s.port with lastOutcome := o } }

/-- LCS rises (R171, R173, R177, R179, R184). -/
def endFrame (s : State) : State :=
  match s.port.frame with
  | .waiting => closePort s
  | .receiving => recordOutcome .short (closePort s)
  | .complete _ (some o) _ => recordOutcome o (closePort s)
  | .complete i none shown =>
    let (o, t) := carryOut i shown (closePort s)
    recordOutcome o t

/-- What only the frame's end tells about a READ REPORTS received before: the bytes clocked out in the whole frame, and
the order of R62. -/
def updateClocked (i : Instr) (s : State) : State :=
  match i, s.port.frame with
  | .readReports g clocked room, .complete (.readReports ..) refusal shown =>
    { s with port := { s.port with frame := .complete (.readReports g clocked room) refusal shown } }
  | _, _ => s

/-- A request's row: its last request byte, or its whole frame up to the end (log 7). -/
def lessonFrame (stage : FrameStage) (i : Instr) (s : State) : State :=
  let t := receive i (openFrame s)
  match stage with
  | .request => t
  | .frameEnd => endFrame (updateClocked i t)

/-- LCS falls for a new frame; a frame still open has ended first (log 8). -/
def fallOfLcs (s : State) : State := openFrame (if s.port.lcsLow then endFrame s else s)

/-- The command that a listed code with no parameters stands for (log 23). -/
def codeAlone (stage : FrameStage) (code : Byte) : Option Instr :=
  if code = 0x01 then some (.identify stage)
  else if code = 0x02 then some (.resetPart stage)
  else if code = 0x40 then some (.readReports stage 0 { met := [], first := .a, leaveBetween := false, leavesFirst := .a })
  else if code = 0x41 then some (.readCause stage)
  else if code = 0x43 then some (.readFault stage)
  else if code = 0x44 then some (.clearFault stage)
  else none

end Sys2Proof.Machine
end

