-- ==== Sys2Proof/Machine/Display.lean ====
section
/-! DEFINITION. The Display Port's transactions (09_the_display_mirror.md). -/
namespace Sys2Proof.Machine
open Sys2Proof

/-- The read pointer from a data byte, if it is 0 to 51 (R166). -/
def readPointerByte (x : Byte) : Option (Fin Config.snapshotSize) :=
  if h : x.toNat < Config.snapshotSize then some ⟨x.toNat, h⟩ else none

/-- A write transaction (R166): the first data byte sets the pointer when it is 0 to 51. `acks` shows the answer to the
address and to each data byte (R186). -/
def writePointer (address : BitVec 7) (data : List Byte) (s : State) : State :=
  if address = Config.displayAddress then
    match data with
    | [] => { s with mirror := { s.mirror with acks := [true] } }
    | x :: rest =>
      let ignored := rest.map fun _ => false
      match readPointerByte x with
      | some p => { s with mirror := { s.mirror with pointer := p, acks := true :: true :: ignored } }
      | none => { s with mirror := { s.mirror with acks := true :: false :: ignored } }
  else { s with mirror := { s.mirror with acks := [false] } }

/-- A read begins at the acknowledged address: both live images are copied whole (R167). -/
def beginRead (address : BitVec 7) (s : State) : State :=
  if address = Config.displayAddress then
    { s with
      mirror :=
        { s.mirror with snapshot := s.mirror.live, read := .reading s.mirror.pointer, acks := [true], sent := [] } }
  else { s with mirror := { s.mirror with acks := [false] } }

/-- The bytes sent in a read: from the pointer on, after byte 51 byte 0 of the same snapshot (R167). -/
def sentBytes (snapshot : Pair Image) (start sent : Nat) : List Byte :=
  (List.range sent).map fun i => (snapshotBytes snapshot).getD ((start + i) % Config.snapshotSize) 0

/-- Whether snapshot byte b was among the bytes sent. -/
def wasSent (start sent b : Nat) : Bool :=
  decide ((b + Config.snapshotSize - start) % Config.snapshotSize < sent)

/-- Where a seat's generation byte stands in the snapshot (R167). -/
def generationByte : Seat → Nat
  | .a => 0
  | .b => 26

/-- The delivered generation of a seat after a read (R168). -/
def deliveredAfter (k : Seat) (start sent : Nat) (m : Mirror) : Byte :=
  if wasSent start sent (generationByte k) then (m.snapshot.get k).generation else m.delivered.get k

/-- A read ends (R168). An abandoned one has sent the snapshot's bytes before the reset and all ones after it, and delivers
nothing (R170). -/
def endRead (sent : ReadSent) (s : State) : State :=
  match s.mirror.read with
  | .none => s
  | .abandoned start before =>
    let whole := min sent.beforeReset sent.bytes
    { s with
      mirror :=
        { s.mirror with
          read := .none, sent := sentBytes before start.val whole ++ List.replicate (sent.bytes - whole) Config.filler } }
  | .reading start =>
    settlePins
      { s with
        mirror :=
          { s.mirror with
            read := .none,
            sent := sentBytes s.mirror.snapshot start.val sent.bytes,
            delivered :=
              { a := deliveredAfter .a start.val sent.bytes s.mirror,
                b := deliveredAfter .b start.val sent.bytes s.mirror } } }

end Sys2Proof.Machine
end

