-- ==== Sys2Proof/Machine/Commands.lean ====
section
/-! DEFINITION. The meaning of each command: one definition for each row of spec/opcode_table.json. Every one of them
answers a next state. -/
namespace Sys2Proof.Machine
open Sys2Proof

/-- The answer of a meaning. -/
abbrev Answer := Host.Outcome State Fault Refusal

/-- POWER_ON_RESET (R1). -/
def execPowerOnReset (s : State) : Answer :=
  .next (afterReset s)

/-- LESSON_CLOCK_TICK (R1, R2). -/
def execLessonClockTick (readA readB : BitVec 64) (before : List Timer) (order : List Seat) (s : State) : Answer :=
  .next (tick readA readB before order s)

/-- REPEAT (R13). Nothing when the timer is not due (log 2). -/
def execRepeatExpiry (matrix : Seat) (s : State) : Answer :=
  .next (settle (fireRepeat matrix s))

/-- IDLE_TIMER_EXPIRY (R65). Nothing when the timer is not due (log 2). -/
def execIdleTimerExpiry (seat : Seat) (s : State) : Answer :=
  .next (settle (fireIdle seat s))

/-- STATUS_BYTE (R172). -/
def execStatusByte (s : State) : Answer :=
  .next (fallOfLcs s)

/-- SHORT_FRAME (R177). A frame whose request is complete ends as its request says (log 7). -/
def execShortFrame (s : State) : Answer :=
  .next (endFrame (openFrame s))

/-- UNKNOWN_COMMAND (R175). A listed code stands for its command (log 23). -/
def execUnknownCommand (stage : FrameStage) (code : Byte) (s : State) : Answer :=
  .next (lessonFrame stage ((codeAlone stage code).getD (.unknownCommand stage code)) s)

/-- IDENTIFY (R181). -/
def execIdentify (stage : FrameStage) (s : State) : Answer :=
  .next (lessonFrame stage (.identify stage) s)

/-- RESET_PART (R182). -/
def execResetPart (stage : FrameStage) (s : State) : Answer :=
  .next (lessonFrame stage (.resetPart stage) s)

/-- SET_TIMING (R183). -/
def execSetTiming (stage : FrameStage) (debounce mashLimit : Byte) (repeatDelay repeatRate tResp : TwoBytes)
    (s : State) : Answer :=
  .next (lessonFrame stage (.setTiming stage debounce mashLimit repeatDelay repeatRate tResp) s)

/-- LOAD_KEYMAP (R4). -/
def execLoadKeymap (stage : FrameStage) (matrix diodes : Byte) (codes : List Byte) (s : State) : Answer :=
  .next (lessonFrame stage (.loadKeymap stage matrix diodes codes) s)

/-- LOAD_WORD (R26, R27). -/
def execLoadWord (stage : FrameStage) (length : TwoBytes) (params : List Byte) (s : State) : Answer :=
  .next (lessonFrame stage (.loadWord stage length params) s)

/-- READ_WORD (R29). -/
def execReadWord (stage : FrameStage) (index : Byte) (s : State) : Answer :=
  .next (lessonFrame stage (.readWord stage index) s)

/-- SET_PROGRESS (R30, R31). -/
def execSetProgress (stage : FrameStage) (index seat : Byte) (mastery due : TwoBytes)
    (streak : Byte) (seen : TwoBytes) (verdict : Byte) (s : State) : Answer :=
  .next (lessonFrame stage (.setProgress stage index seat mastery due streak seen verdict) s)

/-- READ_PROGRESS (R32). -/
def execReadProgress (stage : FrameStage) (index seat : Byte) (s : State) : Answer :=
  .next (lessonFrame stage (.readProgress stage index seat) s)

/-- SET_INTERVALS (R34). -/
def execSetIntervals (stage : FrameStage) (e0 e1 e2 e3 : Byte) (s : State) : Answer :=
  .next (lessonFrame stage (.setIntervals stage e0 e1 e2 e3) s)

/-- SET_FEEDBACK (R124). -/
def execSetFeedback (stage : FrameStage) (slot handle : Byte) (s : State) : Answer :=
  .next (lessonFrame stage (.setFeedback stage slot handle) s)

/-- WRITE_PHRASE (R101). -/
def execWritePhrase (stage : FrameStage) (length : TwoBytes) (params : List Byte) (s : State) : Answer :=
  .next (lessonFrame stage (.writePhrase stage length params) s)

/-- FREE_PHRASE (R105). -/
def execFreePhrase (stage : FrameStage) (handle : Byte) (s : State) : Answer :=
  .next (lessonFrame stage (.freePhrase stage handle) s)

/-- READ_PHRASE_INFO (R110). -/
def execReadPhraseInfo (stage : FrameStage) (handle : Byte) (s : State) : Answer :=
  .next (lessonFrame stage (.readPhraseInfo stage handle) s)

/-- SAY (R120, R121). -/
def execSay (stage : FrameStage) (handle target channel tag : Byte) (s : State) : Answer :=
  .next (lessonFrame stage (.say stage handle target channel tag) s)

/-- SET_SEAT (R42). -/
def execSetSeat (stage : FrameStage)
    (seat check tries gain echo bargeIn autoNext flush idleTimeout nudgeLimit : Byte) (round : TwoBytes) (s : State) :
    Answer :=
  .next (lessonFrame stage
    (.setSeat stage seat check tries gain echo bargeIn autoNext flush idleTimeout nudgeLimit round) s)

/-- START_SEAT (R43). -/
def execStartSeat (stage : FrameStage) (seat : Byte) (s : State) : Answer :=
  .next (lessonFrame stage (.startSeat stage seat) s)

/-- NEXT_WORD (R48, R49). -/
def execNextWord (stage : FrameStage) (seat index : Byte) (s : State) : Answer :=
  .next (lessonFrame stage (.nextWord stage seat index) s)

/-- PAUSE_SEAT (R68). -/
def execPauseSeat (stage : FrameStage) (seat : Byte) (s : State) : Answer :=
  .next (lessonFrame stage (.pauseSeat stage seat) s)

/-- RESUME_SEAT (R69). -/
def execResumeSeat (stage : FrameStage) (seat : Byte) (s : State) : Answer :=
  .next (lessonFrame stage (.resumeSeat stage seat) s)

/-- STOP_SEAT (R44). -/
def execStopSeat (stage : FrameStage) (seat : Byte) (s : State) : Answer :=
  .next (lessonFrame stage (.stopSeat stage seat) s)

/-- READ_SEAT (R74). -/
def execReadSeat (stage : FrameStage) (seat : Byte) (s : State) : Answer :=
  .next (lessonFrame stage (.readSeat stage seat) s)

/-- READ_REPORTS (R153, R154). -/
def execReadReports (stage : FrameStage) (clocked : Nat) (room : RoomOrder) (s : State) : Answer :=
  .next (lessonFrame stage (.readReports stage clocked room) s)

/-- READ_CAUSE (R158). -/
def execReadCause (stage : FrameStage) (s : State) : Answer :=
  .next (lessonFrame stage (.readCause stage) s)

/-- SET_CAUSES (R157). -/
def execSetCauses (stage : FrameStage) (enables trigger : Byte) (tAge : TwoBytes) (s : State) : Answer :=
  .next (lessonFrame stage (.setCauses stage enables trigger tAge) s)

/-- READ_FAULT (R160). -/
def execReadFault (stage : FrameStage) (s : State) : Answer :=
  .next (lessonFrame stage (.readFault stage) s)

/-- CLEAR_FAULT (R161). -/
def execClearFault (stage : FrameStage) (s : State) : Answer :=
  .next (lessonFrame stage (.clearFault stage) s)

/-- READ_COUNTERS (R162). -/
def execReadCounters (stage : FrameStage) (flags : Byte) (s : State) : Answer :=
  .next (lessonFrame stage (.readCounters stage flags) s)

/-- AGED (R155). Nothing when the head is not that old (log 2). -/
def execAgedExpiry (s : State) : Answer :=
  .next (settle (fireAged s))

/-- FETCH (R133 to R141). -/
def execFetch (flags : Byte) (s : State) : Answer :=
  .next (settle (takeFetch flags s))

/-- DONE (R142). -/
def execEngineDone (serial outcome : Byte) (s : State) : Answer :=
  .next (settle (takeDone serial outcome s))

/-- UNKNOWN_SPEECH_REQUEST (R143). FETCH and DONE have rows of their own, so their codes do nothing here (log 23). -/
def execUnknownSpeechRequest (code : Byte) (s : State) : Answer :=
  .next (if code = 1 ∨ code = 2 then s else settle (takeUnknownRequest s))

/-- RESPONSE_TIMER_EXPIRY (R144). Nothing when the timer is not due (log 2). -/
def execResponseTimerExpiry (timeoutFirst : Bool) (s : State) : Answer :=
  .next (settle (fireResponse timeoutFirst s))

/-- DISPLAY_POINTER_WRITE (R166). -/
def execDisplayPointerWrite (address : BitVec 7) (data : List Byte) (s : State) : Answer :=
  .next (writePointer address data s)

/-- DISPLAY_READ_BEGIN (R167). -/
def execDisplayReadBegin (address : BitVec 7) (s : State) : Answer :=
  .next (beginRead address s)

/-- DISPLAY_READ_END (R168, R170). -/
def execDisplayReadEnd (sent : ReadSent) (s : State) : Answer :=
  .next (endRead sent s)

end Sys2Proof.Machine
end

