-- ==== Sys2Proof/Machine/Dispatch.lean ====
section
/-! DEFINITION. One arm for each constructor of Instr: a direct call of its meaning. -/
namespace Sys2Proof.Machine
open Sys2Proof

def exec (i : Instr) (s : State) : Host.Outcome State Fault Refusal :=
  match i with
  | .powerOnReset => Sys2Proof.Machine.execPowerOnReset s
  | .lessonClockTick readA readB before order => Sys2Proof.Machine.execLessonClockTick readA readB before order s
  | .repeatExpiry matrix => Sys2Proof.Machine.execRepeatExpiry matrix s
  | .idleTimerExpiry seat => Sys2Proof.Machine.execIdleTimerExpiry seat s
  | .statusByte => Sys2Proof.Machine.execStatusByte s
  | .shortFrame => Sys2Proof.Machine.execShortFrame s
  | .unknownCommand stage code => Sys2Proof.Machine.execUnknownCommand stage code s
  | .identify stage => Sys2Proof.Machine.execIdentify stage s
  | .resetPart stage => Sys2Proof.Machine.execResetPart stage s
  | .setTiming stage debounce mashLimit repeatDelay repeatRate tResp => Sys2Proof.Machine.execSetTiming stage debounce mashLimit repeatDelay repeatRate tResp s
  | .loadKeymap stage matrix diodes codes => Sys2Proof.Machine.execLoadKeymap stage matrix diodes codes s
  | .loadWord stage length params => Sys2Proof.Machine.execLoadWord stage length params s
  | .readWord stage index => Sys2Proof.Machine.execReadWord stage index s
  | .setProgress stage index seat mastery due streak seen verdict => Sys2Proof.Machine.execSetProgress stage index seat mastery due streak seen verdict s
  | .readProgress stage index seat => Sys2Proof.Machine.execReadProgress stage index seat s
  | .setIntervals stage e0 e1 e2 e3 => Sys2Proof.Machine.execSetIntervals stage e0 e1 e2 e3 s
  | .setFeedback stage slot handle => Sys2Proof.Machine.execSetFeedback stage slot handle s
  | .writePhrase stage length params => Sys2Proof.Machine.execWritePhrase stage length params s
  | .freePhrase stage handle => Sys2Proof.Machine.execFreePhrase stage handle s
  | .readPhraseInfo stage handle => Sys2Proof.Machine.execReadPhraseInfo stage handle s
  | .say stage handle target channel tag => Sys2Proof.Machine.execSay stage handle target channel tag s
  | .setSeat stage seat check tries gain echo bargeIn autoNext flush idleTimeout nudgeLimit round => Sys2Proof.Machine.execSetSeat stage seat check tries gain echo bargeIn autoNext flush idleTimeout nudgeLimit round s
  | .startSeat stage seat => Sys2Proof.Machine.execStartSeat stage seat s
  | .nextWord stage seat index => Sys2Proof.Machine.execNextWord stage seat index s
  | .pauseSeat stage seat => Sys2Proof.Machine.execPauseSeat stage seat s
  | .resumeSeat stage seat => Sys2Proof.Machine.execResumeSeat stage seat s
  | .stopSeat stage seat => Sys2Proof.Machine.execStopSeat stage seat s
  | .readSeat stage seat => Sys2Proof.Machine.execReadSeat stage seat s
  | .readReports stage clocked room => Sys2Proof.Machine.execReadReports stage clocked room s
  | .readCause stage => Sys2Proof.Machine.execReadCause stage s
  | .setCauses stage enables trigger tAge => Sys2Proof.Machine.execSetCauses stage enables trigger tAge s
  | .readFault stage => Sys2Proof.Machine.execReadFault stage s
  | .clearFault stage => Sys2Proof.Machine.execClearFault stage s
  | .readCounters stage flags => Sys2Proof.Machine.execReadCounters stage flags s
  | .agedExpiry => Sys2Proof.Machine.execAgedExpiry s
  | .fetch flags => Sys2Proof.Machine.execFetch flags s
  | .engineDone serial outcome => Sys2Proof.Machine.execEngineDone serial outcome s
  | .unknownSpeechRequest code => Sys2Proof.Machine.execUnknownSpeechRequest code s
  | .responseTimerExpiry timeoutFirst => Sys2Proof.Machine.execResponseTimerExpiry timeoutFirst s
  | .displayPointerWrite address data => Sys2Proof.Machine.execDisplayPointerWrite address data s
  | .displayReadBegin address => Sys2Proof.Machine.execDisplayReadBegin address s
  | .displayReadEnd sent => Sys2Proof.Machine.execDisplayReadEnd sent s

end Sys2Proof.Machine
end

