-- ==== Sys2Proof/Safety.lean ====
section
/-! DEFINITION. What a sound state of the part is, and the shapes of answers, in the terms the claims use. -/
namespace Sys2Proof.Safety
open Sys2Proof Sys2Proof.Machine

/-! ## Shapes of answers -/

/-- A step goes on: it answers a next state. -/
def Goes (o : Host.Outcome State Fault Refusal) : Prop := ∃ t, o = .next t

/-- LCS is high and the decoder waits for its next fall (R184). -/
def PortIdle (s : State) : Prop := s.port.lcsLow = false ∧ s.port.frame = .waiting

/-- The Lesson Port after a whole frame that began in s: LCS high again, the outcome recorded, the reply given (R171 to
R173). The status byte is the one of the fall of LCS (R172). -/
def framePort (s : State) (outcome : LessonOutcome) (reply : List Byte) : LessonPort where
  lcsLow := false
  frame := .waiting
  lastOutcome := outcome
  status := statusByte s
  reply := reply

/-- The stage of a request's row, for the 28 rows that have one. -/
def stageOf : Instr → Option FrameStage
  | .unknownCommand g _ | .identify g | .resetPart g | .setTiming g .. | .loadKeymap g .. | .loadWord g ..
  | .readWord g _ | .setProgress g .. | .readProgress g .. | .setIntervals g .. | .setFeedback g .. | .writePhrase g ..
  | .freePhrase g _ | .readPhraseInfo g _ | .say g .. | .setSeat g .. | .startSeat g _ | .nextWord g .. | .pauseSeat g _
  | .resumeSeat g _ | .stopSeat g _ | .readSeat g _ | .readReports g .. | .readCause g | .setCauses g .. | .readFault g
  | .clearFault g | .readCounters g _ => some g
  | .powerOnReset | .lessonClockTick .. | .repeatExpiry _ | .idleTimerExpiry _ | .statusByte | .shortFrame | .agedExpiry
  | .fetch _ | .engineDone .. | .unknownSpeechRequest _ | .responseTimerExpiry _ | .displayPointerWrite ..
  | .displayReadBegin _ | .displayReadEnd _ => none

/-- The same request as a whole frame. -/
def atFrameEnd : Instr → Instr
  | .unknownCommand _ code => .unknownCommand .frameEnd code
  | .identify _ => .identify .frameEnd
  | .resetPart _ => .resetPart .frameEnd
  | .setTiming _ debounce mashLimit repeatDelay repeatRate tResp =>
    .setTiming .frameEnd debounce mashLimit repeatDelay repeatRate tResp
  | .loadKeymap _ matrix diodes codes => .loadKeymap .frameEnd matrix diodes codes
  | .loadWord _ length params => .loadWord .frameEnd length params
  | .readWord _ index => .readWord .frameEnd index
  | .setProgress _ index seat mastery due streak seen verdict =>
    .setProgress .frameEnd index seat mastery due streak seen verdict
  | .readProgress _ index seat => .readProgress .frameEnd index seat
  | .setIntervals _ e0 e1 e2 e3 => .setIntervals .frameEnd e0 e1 e2 e3
  | .setFeedback _ slot handle => .setFeedback .frameEnd slot handle
  | .writePhrase _ length params => .writePhrase .frameEnd length params
  | .freePhrase _ handle => .freePhrase .frameEnd handle
  | .readPhraseInfo _ handle => .readPhraseInfo .frameEnd handle
  | .say _ handle target channel tag => .say .frameEnd handle target channel tag
  | .setSeat _ seat check tries gain echo bargeIn autoNext flush idleTimeout nudgeLimit round =>
    .setSeat .frameEnd seat check tries gain echo bargeIn autoNext flush idleTimeout nudgeLimit round
  | .startSeat _ seat => .startSeat .frameEnd seat
  | .nextWord _ seat index => .nextWord .frameEnd seat index
  | .pauseSeat _ seat => .pauseSeat .frameEnd seat
  | .resumeSeat _ seat => .resumeSeat .frameEnd seat
  | .stopSeat _ seat => .stopSeat .frameEnd seat
  | .readSeat _ seat => .readSeat .frameEnd seat
  | .readReports _ clocked room => .readReports .frameEnd clocked room
  | .readCause _ => .readCause .frameEnd
  | .setCauses _ enables trigger tAge => .setCauses .frameEnd enables trigger tAge
  | .readFault _ => .readFault .frameEnd
  | .clearFault _ => .clearFault .frameEnd
  | .readCounters _ flags => .readCounters .frameEnd flags
  | .powerOnReset => .powerOnReset
  | .lessonClockTick readA readB before order => .lessonClockTick readA readB before order
  | .repeatExpiry matrix => .repeatExpiry matrix
  | .idleTimerExpiry seat => .idleTimerExpiry seat
  | .statusByte => .statusByte
  | .shortFrame => .shortFrame
  | .agedExpiry => .agedExpiry
  | .fetch flags => .fetch flags
  | .engineDone serial outcome => .engineDone serial outcome
  | .unknownSpeechRequest code => .unknownSpeechRequest code
  | .responseTimerExpiry timeoutFirst => .responseTimerExpiry timeoutFirst
  | .displayPointerWrite address data => .displayPointerWrite address data
  | .displayReadBegin address => .displayReadBegin address
  | .displayReadEnd sent => .displayReadEnd sent

/-- A kind byte and a value byte that R99 does not list. -/
def badItem (kind value : Byte) : Prop :=
  kind = 0 ∨ 7 ≤ kind.toNat ∨ (kind = 1 ∧ (value = 0 ∨ 28 ≤ value.toNat)) ∨ (kind = 2 ∧ 64 ≤ value.toNat)
    ∨ (kind = 3 ∧ value = 0) ∨ (kind = 4 ∧ 16 ≤ value.toNat) ∨ ((kind = 5 ∨ kind = 6) ∧ value ≠ 0)

/-- A speech item that R99 accepts. -/
def itemOk : Item → Bool
  | .letter c => isLetterCode c
  | .sound p => decide (p.toNat ≤ 63)
  | .pause u => decide (1 ≤ u.toNat)
  | .cue t => decide (t.toNat ≤ 15)
  | .spellTarget | .spellEntry => true

/-- A setting held within its range: the nearer end outside it (R180). -/
def Clamped {w : Nat} (low high : Nat) (given stored : BitVec w) : Prop :=
  stored.toNat = max low (min high given.toNat)

/-! ## The values after reset, from each chapter's own table -/

/-- R5, R22, R23, R24, R34, R40 to R42, R98, R111, R129, R148, R163, R170, R182. -/
structure ResetValues (s : State) : Prop where
  clock : s.clock = 0
  timing : s.timing = { debounce := 10, mashLimit := 4, repeatDelay := 500, repeatRate := 150 }
  keys : ∀ m, (s.matrix m).keymap = Vector.replicate _ 0 ∧ (s.matrix m).diodes = false
    ∧ (s.matrix m).keys = Vector.replicate _ .up ∧ (s.matrix m).condition = .normal ∧ (s.matrix m).repeating = none
    ∧ (s.matrix m).ghosts = { value := 0, beyond := 0 }
  queues : ∀ k, s.keyQueue k = [] ∧ s.lostKeys.get k = { value := 0, beyond := 0 }
  words : ∀ w, (s.word w).enabled = false ∧ (s.word w).letters = [] ∧ (s.word w).prompt = none
    ∧ (s.word w).sentence = none
  progress : ∀ w k, s.progress w k = { mastery := 0, due := 0, streak := 0, seen := 0, last := .none }
  intervals : s.deck.intervals = #v[2, 5, 12, 30]
  seats : ∀ k, s.seat k =
    { state := .off, currentWord := none, previousWord := none, round := 0, line := [], tries := 1, hints := 0,
      replays := 0, overtyped := 0, nudges := 0, idleTimer := none, entryMs := 0, pendingResult := none,
      presentationPrompt := none, reviewFeedback := none,
      settings :=
        { check := .whole, triesAllowed := 2, gain := 4, echo := true, bargeIn := true, autoNext := true, flush := true,
          idleTimeout := 8, nudgeLimit := 2 } }
  handles : ∀ h, s.handle h = { state := .empty, itemCount := 0, chain := [], references := 0 }
  free : s.phrases.free.length = 64 ∧ ∀ p, p ∈ s.phrases.free
  lanes : (∀ i, s.lane i = []) ∧ s.lanes.feedback = Vector.replicate _ none 
    ∧ ∀ k, s.lanes.dropped.get k = { value := 0, beyond := 0 }
  link : s.link.inFlight = none ∧ s.link.sequence = none ∧ s.link.lastReply = .idle ∧ s.link.fetched = false
    ∧ s.link.serial = 0 ∧ s.link.pointer = .a ∧ s.link.responseTimer = none ∧ s.link.tResp = 3000
    ∧ s.link.duplicates = { value := 0, beyond := 0 } ∧ s.link.stales = { value := 0, beyond := 0 }
  reports : s.reports.queue = [] ∧ s.reports.losses = { value := 0, beyond := 0 }
    ∧ s.reports.enables = { fault := true, hold := true, level := true, aged := false } ∧ s.reports.trigger = 1
    ∧ s.reports.tAge = 200 ∧ s.reports.fault = none ∧ s.reports.agedPending = false
  images : ∀ k, s.mirror.live.get k =
      { generation := 0, state := .off, targetLength := 0, verdict := .none, tries := 1, symbols := [] }
    ∧ s.mirror.snapshot.get k = s.mirror.live.get k ∧ s.mirror.delivered.get k = 0
  pointer : s.mirror.pointer = 0
  port : s.port.frame = .waiting ∧ s.port.lastOutcome = .ok
  pins : s.pins = { attn := false, srq := false, dchg := false }

/-! ## Invariants -/

/-- A lane offers its head to the arbiter (R115). -/
def Offers (s : State) : LaneId → Prop
  | .system => ∃ e, (s.lane .system).head? = some e ∧ e.state = .queued
  | .prompt k => (∃ e, (s.lane (.prompt k)).head? = some e ∧ e.state = .queued) ∧ (s.seat k).isPaused = false
  | .echo k => (∃ e, (s.lane (.echo k)).head? = some e ∧ e.state = .queued) ∧ (s.seat k).isPaused = false

/-- The three lines and the two idle timers follow the state: ATTN by R156 and R155, SRQ by R132, DCHG by R169, and the
idle timer runs exactly under the conditions of R64. -/
structure LinesFollow (s : State) : Prop where
  attn : s.pins.attn = true ↔
    (s.reports.fault ≠ none ∧ s.reports.enables.fault = true)
    ∨ ((∃ k, (s.seat k).pendingResult ≠ none) ∧ s.reports.enables.hold = true)
    ∨ (s.reports.trigger.toNat ≤ s.reports.queue.length ∧ s.reports.enables.level = true)
    ∨ (s.reports.agedPending = true ∧ s.reports.enables.aged = true)
  srq : s.pins.srq = true ↔
    (∃ u e rest, s.link.inFlight = some u ∧ s.lane u.lane = e :: rest ∧ e.state = .streaming)
    ∨ (s.link.inFlight = none ∧ ∃ i, Offers s i)
  dchg : s.pins.dchg = true ↔ ∃ k, (s.mirror.live.get k).generation ≠ s.mirror.delivered.get k
  idle : ∀ k, (s.seat k).idleTimer ≠ none ↔
    ((s.seat k).state = .present ∨ (s.seat k).state = .entry) ∧ (s.seat k).settings.idleTimeout ≠ 0
      ∧ ∀ e, e ∈ s.lane (.prompt k) ++ s.lane (.echo k) → e.seat ≠ some k

/-- No queue, lane, line or word holds more than its capacity: key queues (R18), lanes (R114), report queue (R149), entry
lines (R41), words (R23). -/
structure WithinCapacity (s : State) : Prop where
  keyQueues : ∀ k, (s.keyQueue k).length ≤ 16
  system : (s.lane .system).length ≤ 4
  prompt : ∀ k, (s.lane (.prompt k)).length ≤ 4
  echo : ∀ k, (s.lane (.echo k)).length ≤ 8
  reports : s.reports.queue.length ≤ 16
  line : ∀ k, (s.seat k).line.length ≤ 20
  letters : ∀ w, (s.word w).letters.length ≤ 16

/-- Every live image shows its seat: state, target length, tries used and entry line (R73). -/
def ImagesFollow (s : State) : Prop :=
  ∀ k, (s.mirror.live.get k).state = shownState (s.seat k).state
    ∧ (s.mirror.live.get k).targetLength = (s.target k).length
    ∧ (s.mirror.live.get k).tries = (s.seat k).tries
    ∧ (s.mirror.live.get k).symbols = (s.seat k).line

/-- How often a page stands in the free set and in the chains of all handles. -/
def pageUses (s : State) (p : Page) : Nat :=
  s.phrases.free.count p + (s.phrases.handles.toList.map fun r => r.chain.count p).sum

/-- Every page is in the free set or in the chain of one handle, never twice; the free set is kept in rising order, and
an EMPTY handle has no chain (R97, R98). -/
structure PagesAccounted (s : State) : Prop where
  once : ∀ p, pageUses s p = 1
  rising : s.phrases.free.Pairwise (fun p q => p.val < q.val)
  empty : ∀ h, (s.handle h).state = .empty → (s.handle h).chain = []

/-- The PHRASE entries of a lane that name a handle. -/
def namedIn (s : State) (i : LaneId) (h : Handle) : Nat := (s.lane i).countP fun e => decide (e.content = .phrase h)

/-- The numbers of entries are below the next one and never twice in a lane (log 22). An entry of the system lane names no
seat, one of a seat's lanes names that seat, or none once it is orphaned (R112, R113, R114); echoes are letters and cues
(R119). Every handle's reference count is the number of PHRASE entries that name it (R103, R104, R112), and an EMPTY
handle has none (R98). -/
structure SpeechAccounted (s : State) : Prop where
  numbered : ∀ i e, e ∈ s.lane i → e.id < s.nextEntryId
  distinct : ∀ i, ((s.lane i).map (·.id)).Nodup
  unseated : ∀ e, e ∈ s.lane .system → e.seat = none
  seated : ∀ k e, e ∈ s.lane (.prompt k) ++ s.lane (.echo k) → e.seat = some k ∨ e.seat = none
  echoes : ∀ k e, e ∈ s.lane (.echo k) → ∀ h, e.content ≠ .phrase h
  references : ∀ h,
    (s.handle h).references = namedIn s .system h + (namedIn s (.prompt .a) h + namedIn s (.prompt .b) h)
  empty : ∀ h, (s.handle h).state = .empty → (s.handle h).references = 0

/-! ## Pieces of answers -/

/-- A seat after a millisecond of lesson clock: a running idle timer has one less left (R64), and the entry time runs in
PRESENT, ENTRY and REVIEW(RETRY) (R66). -/
def afterMillisecond (c : SeatContext) : SeatContext :=
  { c with
    idleTimer := c.idleTimer.map fun left => left - 1,
    entryMs :=
      if c.state = .present ∨ c.state = .entry ∨ c.state = .review .retry then c.entryMs + 1 else c.entryMs }

/-- The whole part after a millisecond in which nothing else happens (R1). -/
def millisecondLater (s : State) : State :=
  { s with
    clock := s.clock + 1,
    seats := { a := afterMillisecond s.seats.a, b := afterMillisecond s.seats.b },
    link := { s.link with responseTimer := s.link.responseTimer.map fun left => left - 1 } }

/-- Nothing is due at the next tick, no key is down, and no report waits. -/
structure Quiet (s : State) : Prop where
  keys : ∀ m p, (s.matrix m).keys.toList.getD p .up = .up
  normal : ∀ m, (s.matrix m).condition = .normal ∧ (s.matrix m).repeating = none
  idle : ∀ k, (s.seat k).idleTimer ≠ some 0
  response : s.link.responseTimer ≠ some 0
  reports : s.reports.queue = []

/-- A speech entry that has just joined a lane (R112). -/
def freshEntry (s : State) (content : Content) (origin : SpeechOrigin) (seat : Option Seat) (channel : Option Channel)
    (tag : Byte) : SpeechEntry where
  id := s.nextEntryId
  content := content
  origin := origin
  seat := seat
  channel := channel
  tag := tag
  state := .queued
  cutPending := false

/-- A record that joins the report queue in s (R149). -/
def stamped (s : State) (body : Report) : Record := { stamp := s.clock, body := body }

/-- The report queue with one more record, the causes worked out afresh (R150, R155). -/
def withRecord (s : State) (body : Report) : ReportUnit :=
  let queue := s.reports.queue ++ [stamped s body]
  { s.reports with
    queue := queue,
    agedPending :=
      match queue with
      | r :: _ => decide (s.reports.tAge ≠ 0) && decide (s.reports.tAge.toNat ≤ (s.clock - r.stamp).toNat)
      | [] => false }

/-- The fault record after a fault (R159). -/
def withFault (s : State) (kind : FaultKind) (detail : Byte) : FaultRecord :=
  match s.reports.fault with
  | none => { kind := kind, detail := detail, stamp := s.clock, extra := 0 }
  | some f => { f with extra := if f.extra = 255 then 255 else f.extra + 1 }

/-- The report queue without its oldest records (R154). -/
def lessRecords (n : Nat) (s : State) : State :=
  { s with reports := { s.reports with queue := s.reports.queue.drop n } }

/-- A seat's result once the queue has taken it: the record, the seat's round and previous word, and the figures in its
progress record on the word (R33, R61, R150). -/
def resultTaken (k : Seat) (p : PendingResult) (s : State) : State :=
  let seen := (s.progress p.result.word k).seen
  { s with
    seats :=
      s.seats.set k
        { s.seat k with
          round := if (s.seat k).round = 65535 then 65535 else (s.seat k).round + 1,
          previousWord := (s.seat k).currentWord, pendingResult := none },
    deck :=
      (s.setProgress p.result.word k
        { mastery := p.result.newMastery, due := p.due, streak := p.streak,
          seen := if seen = 65535 then 65535 else seen + 1, last := p.result.verdict }).deck,
    reports := withRecord s (.wordResult p.result) }

/-- The live images after one write of a seat's image, whose generation moves by 1 if the write changes a field
(R164, R165). -/
def liveWith (k : Seat) (state : ShownState) (targetLength : Nat) (verdict : Verdict) (tries : Byte)
    (symbols : List Symbol) (s : State) : Pair Image :=
  let old := s.mirror.live.get k
  let new : Image :=
    { generation := old.generation, state := state, targetLength := targetLength, verdict := verdict, tries := tries,
      symbols := symbols }
  s.mirror.live.set k (if new = old then old else { new with generation := old.generation + 1 })

/-- A KEPT phrase has joined a seat's prompt lane as a drill phrase: its reference is taken (R45, R103, R112). -/
def phraseQueued (k : Seat) (h : Handle) (origin : SpeechOrigin) (s : State) : State :=
  { s with
    phrases :=
      { s.phrases with
        handles := s.phrases.handles.set h.val { s.handle h with references := (s.handle h).references + 1 } },
    lanes :=
      { s.lanes with
        prompt := s.lanes.prompt.set k (s.lane (.prompt k) ++ [freshEntry s (.phrase h) origin (some k) none 0]) },
    nextEntryId := s.nextEntryId + 1 }

/-- One reference on a handle has been given up, and the handle keeps its pages (R104). -/
def referenceGivenUp (h : Handle) (s : State) : State :=
  { s with
    phrases :=
      { s.phrases with
        handles := s.phrases.handles.set h.val { s.handle h with references := (s.handle h).references - 1 } } }

/-- A seat to which a word has just been presented (R46). -/
def freshSeat (w : WordIndex) (state : SeatState) (prompt idle : Option Nat) (c : SeatContext) : SeatContext :=
  { c with
    state := state, currentWord := some w, line := [], tries := 1, hints := 0, replays := 0, overtyped := 0, nudges := 0,
    idleTimer := idle, entryMs := 0, presentationPrompt := prompt }

/-- The key queues after a presentation (R46 step 4). -/
def flushedKeys (k : Seat) (s : State) : Pair (List KeyEntry) :=
  if (s.seat k).settings.flush then s.keyQueues.set k [] else s.keyQueues

/-- A word with a prompt has been presented, and no key has been taken yet (R46, R165). -/
def wordPresented (k : Seat) (w : WordIndex) (h : Handle) (s : State) : State :=
  { phraseQueued k h .drillPrompt s with
    seats := s.seats.set k (freshSeat w .present (some s.nextEntryId) none (s.seat k)),
    keyQueues := flushedKeys k s,
    mirror := { s.mirror with live := liveWith k .present (s.word w).letters.length .none 1 [] s } }

/-- The idle timer of a seat when it has just begun to run (R64). -/
def startedIdle (c : SeatContext) : Option Nat :=
  if c.settings.idleTimeout = 0 then none else some (c.settings.idleTimeout.toNat * 1000)

/-- A counter after one more count: 16 bits that stop at 65535, and beside them the counts that came there (R162,
log 28). -/
def counted (c : Counter) : Counter :=
  if c.value = 65535 then { value := 65535, beyond := c.beyond + 1 } else { value := c.value + 1, beyond := c.beyond }

/-- A counter at the end of a clearing READ COUNTERS frame whose reply showed it as `shown`: what it counted since, up to
65535 (R162). -/
def countsSince (shown c : Counter) : Counter where
  value := BitVec.ofNat 16 (min 65535 ((c.value - shown.value).toNat + (c.beyond - shown.beyond)))
  beyond := 0

/-- The report unit after a full queue has lost a record (R151, R159). -/
def withLoss (s : State) (body : Report) : ReportUnit :=
  { s.reports with
    losses := counted s.reports.losses,
    fault := some (withFault s .reportLoss (reportKindCode body)) }

/-- The link after an accepted DONE (R142, R145). -/
def linkDone (s : State) : Link := { s.link with inFlight := none, responseTimer := none, reply := [1] }

/-- The link after a FETCH answered with an item (R130, R138). -/
def linkItem (flags : Byte) (u : Utterance) (item : Item) (s : State) : Link :=
  { s.link with
    inFlight := some u, sequence := some (flags.getLsbD 0), lastReply := .item item u.serial, fetched := true,
    responseTimer := some s.link.tResp.toNat, reply := [2] ++ itemBytes item ++ [u.serial] }

/-- The report unit after a record that is no WORD_RESULT was offered: taken, or lost to a full queue (R150, R151). -/
def offered (s : State) (body : Report) : ReportUnit :=
  if s.reports.queue.length < 16 then withRecord s body else withLoss s body

/-- A fault has been raised (R159). -/
def faulted (kind : FaultKind) (detail : Byte) (s : State) : State :=
  { s with reports := { s.reports with fault := some (withFault s kind detail) } }

/-- No utterance is in flight any more (R145 step 1). -/
def nothingInFlight (s : State) : Link := { s.link with inFlight := none, responseTimer := none }

/-- The phrase at the head of the system lane has left with an outcome, and its handle keeps its pages (R117, R145). -/
def systemSpoken (outcome : SpeechOutcome) (e : SpeechEntry) (rest : List SpeechEntry) (h : Handle) (s : State) : State :=
  { referenceGivenUp h s with
    lanes := { s.lanes with system := rest }, link := nothingInFlight s,
    reports := if e.tag = 0 then s.reports else offered s (.speechDone e.tag outcome none e.channel) }

/-- The untagged phrase that was all of a seat's prompt lane has left, its handle keeps its pages, and the seat has not
been told (R117, R145). -/
def promptSpoken (k : Seat) (h : Handle) (s : State) : State :=
  { referenceGivenUp h s with
    lanes := { s.lanes with prompt := s.lanes.prompt.set k [] }, link := nothingInFlight s }

/-- What seat k does when it is told that its phrase e, the last of its speech, has completed, with no key waiting
(R47, R60, R63, R70, R72): the part goes on from `spoken`, which is s without the phrase, and `answers` says what the
command comes to. As presentation prompt it ends PRESENT, or a resume point of PRESENT. As review feedback it carries out
the retry, or ends the wait, or lets the seat leave REVIEW; in PAUSED it only ends the wait. -/
def SeatIsTold (k : Seat) (e : SpeechEntry) (s spoken : State) (answers : State → Prop) : Prop :=
  let c := s.seat k
  let becomes (c' : SeatContext) (live : Pair Image) : Prop :=
    answers { spoken with seats := s.seats.set k c', mirror := { s.mirror with live := live } }
  (c.presentationPrompt = some e.id →
    (c.state = .present →
      becomes { c with state := .entry, presentationPrompt := none, idleTimer := startedIdle c }
        (liveWith k .entry (s.target k).length (s.mirror.live.get k).verdict c.tries c.line s))
    ∧ (∀ reason, c.state = .paused reason .present →
      becomes { c with state := .paused reason .entry, presentationPrompt := none } s.mirror.live))
  ∧ (c.presentationPrompt ≠ some e.id → c.reviewFeedback = some e.id →
    (c.state = .review .retry →
      becomes
        { c with
          state := .entry, line := [], tries := c.tries + 1, reviewFeedback := none, idleTimer := startedIdle c }
        (liveWith k .entry (s.target k).length (s.mirror.live.get k).verdict (c.tries + 1) [] s))
    ∧ (c.state = .review .final → c.pendingResult ≠ none → becomes { c with reviewFeedback := none } s.mirror.live)
    ∧ (∀ reason phase, c.state = .paused reason (.review phase) →
      becomes { c with reviewFeedback := none } s.mirror.live)
    ∧ (c.state = .review .final → c.pendingResult = none → c.settings.autoNext = false →
      becomes { c with state := .idle, currentWord := none, line := [], reviewFeedback := none }
        (liveWith k .idle 0 (s.mirror.live.get k).verdict c.tries [] s))
    ∧ (∀ w g, c.state = .review .final → c.pendingResult = none → c.settings.autoNext = true →
      pickWord k s = some w → (s.word w).prompt = some g → (s.handle g).state = .kept →
      answers (wordPresented k w g { spoken with seats := s.seats.set k { c with reviewFeedback := none } })))

/-- A speech entry of seat k that waits to be started (R112). -/
def Waits (k : Seat) (e : SpeechEntry) : Prop := e.state = .queued ∧ e.seat = some k ∧ e.channel = none

/-- A letter echo or a cue has joined seat k's echo lane; a lane of 8 has first dropped its oldest queued entry, the head
or the one behind a head in flight, and counted it (R119). -/
def echoJoined (k : Seat) (content : Content) (s : State) : State :=
  let lane := s.lane (.echo k)
  let kept :=
    if lane.length < 8 then lane
    else
      match lane with
      | e :: rest => if e.state = .queued then rest else e :: rest.tail
      | [] => []
  { s with
    lanes :=
      { s.lanes with
        echo := s.lanes.echo.set k (kept ++ [freshEntry s content .drillEcho (some k) none 0]),
        dropped :=
          if lane.length < 8 then s.lanes.dropped
          else s.lanes.dropped.set k (counted (s.lanes.dropped.get k)) },
    nextEntryId := s.nextEntryId + 1 }

/-- Seat k, with a context, is in ENTRY with a line, and its image shows that with the verdict it showed before (R53, R55,
R165). -/
def lineShown (k : Seat) (c : SeatContext) (line : List Symbol) (s : State) : State :=
  { s with
    seats := s.seats.set k { c with state := .entry, line := line },
    mirror :=
      { s.mirror with
        live := liveWith k .entry (s.target k).length (s.mirror.live.get k).verdict c.tries line s } }

/-- A DRILL_PROMPT of seat k that is queued (R125). -/
def bargedOver (k : Seat) (e : SpeechEntry) : Bool :=
  decide (e.state = .queued ∧ e.seat = some k ∧ e.origin = .drillPrompt)

/-- Every queued DRILL_PROMPT of seat k has left its prompt lane as CUT, given up its reference, and been told: the
presentation prompt among them ends PRESENT (R125, R117, R47). -/
def promptsCut (k : Seat) (s : State) : State :=
  let out := (s.lane (.prompt k)).filter (bargedOver k)
  let c := s.seat k
  let released :=
    out.foldl (fun t e => match e.content with | .phrase h => releaseReference h t | .letter _ | .cue _ => t) s
  let left : State :=
    { released with
      lanes := { s.lanes with prompt := s.lanes.prompt.set k ((s.lane (.prompt k)).filter fun e => !bargedOver k e) } }
  if ∃ e ∈ out, c.presentationPrompt = some e.id then
    let told : SeatContext := { c with presentationPrompt := none }
    if c.state = .present then lineShown k told c.line left else { left with seats := s.seats.set k told }
  else left

/-- The cell an alignment step ends at; it comes from `stepTarget` (R81). -/
def stepEnd : AlignStep → Nat × Nat
  | .pair i j | .swap i j | .substitute i j | .omit i j | .insert i j => (i, j)

/-- The steps lead from one cell to another, each from where the one before it ended (R81, R82). -/
def Leads : Nat × Nat → List AlignStep → Nat × Nat → Prop
  | start, [], goal => start = goal
  | start, x :: xs, goal => stepTarget x = start ∧ Leads (stepEnd x) xs goal

/-- A match step (R81). -/
def isMatch : AlignStep → Bool
  | .pair _ _ => true
  | .swap _ _ | .substitute _ _ | .omit _ _ | .insert _ _ => false

/-- The kind and the position that R83 gives a non-match step. -/
def errorOf : AlignStep → Option (ErrorKind × Nat)
  | .pair _ _ => none
  | .swap _ j => some (.swap, j - 1)
  | .substitute _ j => some (.substitute, j)
  | .omit _ j => some (.omit, j)
  | .insert _ j => some (.insert, j + 1)

end Sys2Proof.Safety
end

