-- ==== Sys2Proof/Certificates/Slice0/Obligations.lean ====
section
/-! DEFINITION. The statements for the provers. A statement about a command of the Lesson Port is about its whole frame
from a port that waits; `RequestTakesEffectAtFrameEnd` says what the two stages of a frame are. -/
open Sys2Proof Sys2Proof.Machine Sys2Proof.Safety

/-! ## Steps, reset -/

/-- A step takes the command at the front of the queue and runs it on the state with the queue's rest; on an empty queue the
part idles, which is the model's choice (log 6). Every command answers a next state in every state: there is no fault and
no refusal. -/
def Obligations.StepRunsFrontCommand : Prop :=
  ((∀ (c : Instr) (rest : List Instr) (s : State),
     step { s with pending := c :: rest } = exec c { s with pending := rest })
   ∧ ∀ s : State, s.pending = [] → step s = .next s)
  ∧ ((∀ (c : Instr) (s : State), Goes (exec c s)) ∧ ∀ s, Goes (step s))

/-- State.reset holds the value every chapter gives for reset, and every invariant stated below. -/
def Obligations.ResetStateIsSound : Prop :=
  ResetValues State.reset ∧ State.reset.pending = [] ∧ PortIdle State.reset ∧ LinesFollow State.reset
    ∧ WithinCapacity State.reset ∧ ImagesFollow State.reset ∧ PagesAccounted State.reset ∧ SpeechAccounted State.reset

/-- POWER_ON_RESET (R1, R182): every block at its reset values, waiting commands kept; LCS stays as the pin is, a frame in
progress is abandoned (R184), and so is a read on the Display Port, which keeps the start and the snapshot it was sent from
(R170, log 9). RESET_PART (R182): the same at the end of its frame, whose own outcome is OK. -/
def Obligations.ResetsRestoreThePart : Prop :=
  let readAbandoned (s t : State) : Prop :=
    (s.mirror.read = .none → t.mirror.read = .none)
    ∧ (∀ start, s.mirror.read = .reading start → t.mirror.read = .abandoned start s.mirror.snapshot)
    ∧ (∀ start before, s.mirror.read = .abandoned start before → t.mirror.read = .abandoned start before)
  (∀ s : State, ∃ t, exec .powerOnReset s = .next t ∧ ResetValues t ∧ t.pending = s.pending
     ∧ t.port.lcsLow = s.port.lcsLow ∧ readAbandoned s t)
  ∧ (∀ s : State, PortIdle s →
     ∃ t, exec (.resetPart .frameEnd) s = .next t ∧ ResetValues t ∧ t.pending = s.pending ∧ PortIdle t
       ∧ readAbandoned s t)

/-- ATTN, SRQ, DCHG and the idle timers follow the state at every step (R132, R156, R169, R64). -/
def Obligations.LinesFollowEveryStep : Prop := ∀ s t : State, LinesFollow s → step s = .next t → LinesFollow t

/-- No queue, lane or entry line ever holds more than its capacity (R18, R41, R114, R149). -/
def Obligations.CapacityKeptEveryStep : Prop := ∀ s t : State, WithinCapacity s → step s = .next t → WithinCapacity t

/-- Every live image shows its seat after every step (R73, R165). -/
def Obligations.ImagesFollowEveryStep : Prop := ∀ s t : State, ImagesFollow s → step s = .next t → ImagesFollow t

/-- Every page stays in the free set or in exactly one chain (R97). -/
def Obligations.PagesAccountedEveryStep : Prop := ∀ s t : State, PagesAccounted s → step s = .next t → PagesAccounted t

/-- Reference counts stay the numbers of waiting PHRASE entries (R103, R104). -/
def Obligations.ReferencesCountedEveryStep : Prop :=
  ∀ s t : State, SpeechAccounted s → step s = .next t → SpeechAccounted t

/-! ## Frames -/

/-- STATUS_BYTE (R172): when LCS falls the byte is made up from the part as it stands, and nothing else happens. -/
def Obligations.StatusByteShowsThePart : Prop :=
  ∀ s : State, PortIdle s →
    ∃ b : Byte, exec .statusByte s = .next
        { s with
          port := { lcsLow := true, frame := .receiving, lastOutcome := s.port.lastOutcome, status := b, reply := [] } }
      ∧ b.extractLsb' 0 4 = (outcomeCode s.port.lastOutcome).extractLsb' 0 4
      ∧ b.getLsbD 4 = s.pins.attn ∧ (b.getLsbD 5 = true ↔ s.reports.fault ≠ none)
      ∧ (b.getLsbD 6 = true ↔ (s.seat .a).state ≠ .off) ∧ (b.getLsbD 7 = true ↔ (s.seat .b).state ≠ .off)

/-- SHORT_FRAME (R177): a frame that ends before its request is complete changes nothing, and its outcome is SHORT,
whether it brought no byte or ended after some. A frame abandoned by a reset records nothing (R184). -/
def Obligations.ShortFrameChangesNothing : Prop :=
  ∀ s : State,
    (PortIdle s → exec .shortFrame s = .next { s with port := framePort s .short [] })
    ∧ (s.port.lcsLow = true → s.port.frame = .receiving →
        exec .shortFrame s = .next
          { s with port := { s.port with lcsLow := false, frame := .waiting, lastOutcome := .short } })
    ∧ (s.port.lcsLow = true → s.port.frame = .waiting →
        exec .shortFrame s = .next { s with port := { s.port with lcsLow := false } })

/-- UNKNOWN_COMMAND (R175): an unlisted code gives UNKNOWN and no reply bytes, and nothing else changes. The request is
complete with the code byte, so a frame that ends there is not SHORT; every byte after it is filler. -/
def Obligations.UnknownCommandChangesNothing : Prop :=
  ∀ (code : Byte) (s : State), code ∉ Config.lessonCodes → PortIdle s →
    exec (.unknownCommand .frameEnd code) s = .next { s with port := framePort s .unknown [] }
    ∧ ∀ t, exec (.unknownCommand .request code) s = .next t →
        (∀ n, t.lessonByte n = 255) ∧ exec .shortFrame t = .next { s with port := framePort s .unknown [] }

/-- A request changes nothing but the Lesson Port until its frame ends, and the frame end carries out what the request said:
a frame of any of the 28 rows that have a request, cut at its last request byte, with nothing in between, comes to what the
whole frame comes to (R178, R179). -/
def Obligations.RequestTakesEffectAtFrameEnd : Prop :=
  (∀ (i : Instr) (s : State), stageOf i = some .request → ∃ p : LessonPort, exec i s = .next { s with port := p })
  ∧ (∀ (i : Instr) (s t : State), stageOf i = some .request → PortIdle s → exec i s = .next t →
     exec .shortFrame t = exec (atFrameEnd i) s)

/-- Content out of range is refused with RANGE, without reply bytes, and changes nothing (R180, R178). A length field that
cannot describe a whole command is refused with LENGTH, whatever follows it (R176). What the port sends after the last
request byte is the reply, then filler; without a reply, filler alone (R178, R185). -/
def Obligations.MalformedRequestsChangeNothing : Prop :=
  (∀ s : State, PortIdle s →
     let refused (o : LessonOutcome) (i : Instr) : Prop := exec i s = .next { s with port := framePort s o [] }
     (∀ (x y z v : Byte) (mastery due seen : TwoBytes),
       (128 ≤ x.toNat → refused .range (.readWord .frameEnd x))
       ∧ (128 ≤ x.toNat ∨ 2 ≤ y.toNat → refused .range (.readProgress .frameEnd x y))
       ∧ (128 ≤ x.toNat ∨ 2 ≤ y.toNat ∨ 5 ≤ v.toNat → refused .range (.setProgress .frameEnd x y mastery due z seen v))
       ∧ (48 ≤ x.toNat → refused .range (.freePhrase .frameEnd x) ∧ refused .range (.readPhraseInfo .frameEnd x))
       ∧ (48 ≤ x.toNat ∨ 3 ≤ y.toNat ∨ (y = 0 ∧ 3 ≤ z.toNat) → refused .range (.say .frameEnd x y z v))
       ∧ ((8 ≤ x.toNat ∧ x ≠ 255) ∨ (x.toNat < 8 ∧ 48 ≤ y.toNat ∧ y ≠ 255) →
           refused .range (.setFeedback .frameEnd x y))
       ∧ (2 ≤ x.toNat → refused .range (.startSeat .frameEnd x) ∧ refused .range (.pauseSeat .frameEnd x)
           ∧ refused .range (.resumeSeat .frameEnd x) ∧ refused .range (.stopSeat .frameEnd x)
           ∧ refused .range (.readSeat .frameEnd x))
       ∧ (2 ≤ x.toNat ∨ (128 ≤ y.toNat ∧ y ≠ 255) → refused .range (.nextWord .frameEnd x y))
       ∧ (∀ w : WordIndex, (s.word w).enabled = false → refused .range (.nextWord .frameEnd x (byteOf w.val))))
     ∧ (∀ (seat check tries gain echo bargeIn autoNext flush timeout limit : Byte) (round : TwoBytes),
         (2 ≤ seat.toNat ∨ 2 ≤ check.toNat ∨ 2 ≤ echo.toNat ∨ 2 ≤ bargeIn.toNat ∨ 2 ≤ autoNext.toNat
             ∨ 2 ≤ flush.toNat) →
           refused .range
             (.setSeat .frameEnd seat check tries gain echo bargeIn autoNext flush timeout limit round))
     ∧ (∀ (matrix diodes : Byte) (codes : List Byte), codes.length = 64 → 2 ≤ matrix.toNat ∨ 2 ≤ diodes.toNat →
         refused .range (.loadKeymap .frameEnd matrix diodes codes))
     ∧ (∀ (n : TwoBytes) (index enabled prompt sentence zero : Byte) (letters : List Byte),
         (wordOf n).toNat = 5 + letters.length →
         128 ≤ index.toNat ∨ 2 ≤ enabled.toNat ∨ (48 ≤ prompt.toNat ∧ prompt ≠ 255)
           ∨ (48 ≤ sentence.toNat ∧ sentence ≠ 255) ∨ 2 ≤ zero.toNat ∨ letters = [] ∨ 16 < letters.length
           ∨ (∃ c ∈ letters, c = 0 ∨ 28 ≤ c.toNat) →
         refused .range (.loadWord .frameEnd n ([index, enabled, prompt, sentence, zero] ++ letters)))
     ∧ (∀ (n : TwoBytes) (handle kind : Byte) (items : List (Byte × Byte)),
         (wordOf n).toNat = 2 + 2 * items.length →
         48 ≤ handle.toNat ∨ (kind ≠ 1 ∧ kind ≠ 2) ∨ items = [] ∨ 128 < items.length
           ∨ (∃ i ∈ items, badItem i.1 i.2) →
         refused .range (.writePhrase .frameEnd n ([handle, kind] ++ items.flatMap fun i => [i.1, i.2])))
     ∧ (∀ (n : TwoBytes) (params : List Byte),
         ((wordOf n).toNat < 5 → refused .length (.loadWord .frameEnd n params))
         ∧ ((wordOf n).toNat < 2 ∨ (wordOf n).toNat % 2 = 1 → refused .length (.writePhrase .frameEnd n params))))
  ∧ (∀ (s : State) (o : LessonOutcome) (reply : List Byte) (n : Nat),
     let t : State := { s with port := framePort s o reply }
     (reply.length ≤ n → t.lessonByte n = 255) ∧ (∀ h : n < reply.length, t.lessonByte n = reply[n]))

/-- IDENTIFY (R181): the part code, the revision and the capacities, from the code byte on; nothing changes but the last
outcome. -/
def Obligations.IdentifyGivesTheCapacities : Prop :=
  ∀ s : State, PortIdle s →
    exec (.identify .frameEnd) s = .next { s with port := framePort s .ok [0x02, 0x40, 0x01, 128, 64, 48, 2] }
    ∧ ∀ t, exec (.identify .request) s = .next t → t.port.reply = [0x02, 0x40, 0x01, 128, 64, 48, 2]

/-- SET_TIMING (R183, R5, R144): each value is pulled into its range and stored, and the reply gives the values. A 16-bit
value travels most significant byte first (R185). -/
def Obligations.SetTimingStoresTheClampedValues : Prop :=
  (∀ (d m : Byte) (delay rate resp : TwoBytes) (s : State), PortIdle s →
     ∃ (d' m' : Byte) (delay' rate' resp' : Word16),
       exec (.setTiming .frameEnd d m delay rate resp) s = .next
         { s with
           timing := { debounce := d', mashLimit := m', repeatDelay := delay', repeatRate := rate' },
           link := { s.link with tResp := resp' },
           port := framePort s .ok ([d', m'] ++ bytes16 delay' ++ bytes16 rate' ++ bytes16 resp') }
       ∧ Clamped 2 30 d d' ∧ Clamped 3 8 m m' ∧ Clamped 200 1000 (wordOf delay) delay'
       ∧ Clamped 50 500 (wordOf rate) rate' ∧ Clamped 100 5000 (wordOf resp) resp')
  ∧ (∀ x : TwoBytes, (wordOf x).toNat = 256 * x.first.toNat + x.second.toNat ∧ bytes16 (wordOf x) = [x.first, x.second])

/-- LOAD_KEYMAP (R4): the 64 codes, the diodes and the end of any repeat of that matrix; a code outside the table is
RANGE. -/
def Obligations.LoadKeymapSetsTheMatrix : Prop :=
  ∀ (m : Seat) (diodes : Bool) (codes : Vector Byte 64) (s : State), PortIdle s →
    ((∀ c ∈ codes.toList, c.toNat ≤ 27 ∨ (32 ≤ c.toNat ∧ c.toNat ≤ 36) ∨ (40 ≤ c.toNat ∧ c.toNat ≤ 47)) →
      exec (.loadKeymap .frameEnd (seatCode m) (flagByte diodes) codes.toList) s = .next
        { s with
          matrices := s.matrices.set m { s.matrix m with keymap := codes, diodes := diodes, repeating := none },
          port := framePort s .ok [] })
    ∧ ((∃ c ∈ codes.toList, (28 ≤ c.toNat ∧ c.toNat ≤ 31) ∨ (37 ≤ c.toNat ∧ c.toNat ≤ 39) ∨ 48 ≤ c.toNat) →
      exec (.loadKeymap .frameEnd (seatCode m) (flagByte diodes) codes.toList) s = .next
        { s with port := framePort s .range [] })

/-! ## Deck -/

/-- LOAD_WORD (R26, R27): the record is written as given; progress is kept, or zeroed for both seats. -/
def Obligations.LoadWordWritesTheRecord : Prop :=
  ∀ (w : WordIndex) (enabled zero : Bool) (prompt sentence : Option Handle) (letters : List Byte) (n : TwoBytes)
    (s : State), PortIdle s →
    1 ≤ letters.length → letters.length ≤ 16 → (∀ c ∈ letters, 1 ≤ c.toNat ∧ c.toNat ≤ 27) →
    (wordOf n).toNat = 5 + letters.length →
    (∀ k, (s.seat k).currentWord ≠ some w ∧ ∀ p, (s.seat k).pendingResult = some p → p.result.word ≠ w) →
    exec (.loadWord .frameEnd n
        ([byteOf w.val, flagByte enabled, indexByte prompt, indexByte sentence, flagByte zero] ++ letters)) s = .next
      { s with
        deck :=
          { s.deck with
            words :=
              s.deck.words.set w.val
                { enabled := enabled, letters := letters, prompt := prompt, sentence := sentence,
                  progress :=
                    if zero then
                      { a := { mastery := 0, due := 0, streak := 0, seen := 0, last := .none },
                        b := { mastery := 0, due := 0, streak := 0, seen := 0, last := .none } }
                    else (s.word w).progress } },
        port := framePort s .ok [] }

/-- LOAD_WORD and SET_PROGRESS with content in range that name a word in use are refused with IN_USE and change nothing
(R25). -/
def Obligations.WordInUseIsRefused : Prop :=
  ∀ (w : WordIndex) (k j : Seat) (s : State), PortIdle s →
    ((s.seat k).currentWord = some w ∨ ∃ p, (s.seat k).pendingResult = some p ∧ p.result.word = w) →
    (∀ (enabled zero : Bool) (prompt sentence : Option Handle) (letters : List Byte) (n : TwoBytes),
      1 ≤ letters.length → letters.length ≤ 16 → (∀ c ∈ letters, 1 ≤ c.toNat ∧ c.toNat ≤ 27) →
      (wordOf n).toNat = 5 + letters.length →
      exec (.loadWord .frameEnd n
          ([byteOf w.val, flagByte enabled, indexByte prompt, indexByte sentence, flagByte zero] ++ letters)) s = .next
        { s with port := framePort s .inUse [] })
    ∧ (∀ (mastery due seen : TwoBytes) (streak : Byte) (v : Verdict),
      exec (.setProgress .frameEnd (byteOf w.val) (seatCode j) mastery due streak seen (verdictCode v)) s = .next
        { s with port := framePort s .inUse [] })

/-- READ_WORD, READ_PROGRESS and READ_PHRASE_INFO (R29, R32, R110) answer the record as it stands and change nothing. -/
def Obligations.RecordReadsShowWhatStands : Prop :=
  (∀ (w : WordIndex) (k : Seat) (s : State), PortIdle s →
     let r := s.word w
     let p := r.progress.get k
     ((s.word w).letters.length ≤ 16 →
       exec (.readWord .frameEnd (byteOf w.val)) s = .next
         { s with
           port :=
             framePort s .ok
               ([flagByte r.enabled, byteOf r.letters.length, indexByte r.prompt, indexByte r.sentence] ++ r.letters
                 ++ List.replicate (16 - r.letters.length) 0) })
     ∧ exec (.readProgress .frameEnd (byteOf w.val) (seatCode k)) s = .next
         { s with
           port :=
             framePort s .ok
               ([p.mastery] ++ bytes16 p.due ++ [p.streak] ++ bytes16 p.seen ++ [verdictCode p.last]) })
  ∧ (∀ (h : Handle) (s : State), PortIdle s → (s.handle h).chain.length ≤ 8 →
     let r := s.handle h
     exec (.readPhraseInfo .frameEnd (byteOf h.val)) s = .next
       { s with
         port :=
           framePort s .ok
             ([handleStateCode r.state, byteOf r.itemCount, byteOf r.chain.length]
               ++ (r.chain.map fun p => byteOf p.val) ++ List.replicate (8 - r.chain.length) 255
               ++ [byteOf r.references, byteOf s.phrases.free.length]) })

/-- SET_PROGRESS (R30, R31): all five fields of one seat's record on the word, mastery held at 255. -/
def Obligations.SetProgressWritesOneRecord : Prop :=
  ∀ (w : WordIndex) (k : Seat) (mastery due seen : TwoBytes) (streak : Byte) (v : Verdict) (s : State), PortIdle s →
    (∀ j, (s.seat j).currentWord ≠ some w ∧ ∀ p, (s.seat j).pendingResult = some p → p.result.word ≠ w) →
    ∃ m : Byte, m.toNat = min 255 (wordOf mastery).toNat
      ∧ exec (.setProgress .frameEnd (byteOf w.val) (seatCode k) mastery due streak seen (verdictCode v)) s = .next
          { s with
            deck :=
              { s.deck with
                words :=
                  s.deck.words.set w.val
                    { s.word w with
                      progress :=
                        (s.word w).progress.set k
                          { mastery := m, due := wordOf due, streak := streak, seen := wordOf seen, last := v } } },
            port := framePort s .ok [] }

/-- SET_INTERVALS (R34): 0 is stored as 1, every other byte as given. SET_FEEDBACK (R124): the named slot, or nothing for
slot 255; the reply is the table after it. -/
def Obligations.TableSettingsAreStored : Prop :=
  (∀ (a b c d : Byte) (s : State), PortIdle s →
     let kept (x : Byte) : Byte := if x = 0 then 1 else x
     exec (.setIntervals .frameEnd a b c d) s = .next
       { s with
         deck := { s.deck with intervals := #v[kept a, kept b, kept c, kept d] },
         port := framePort s .ok [kept a, kept b, kept c, kept d] })
  ∧ (∀ (i : Fin 8) (h : Option Handle) (x : Byte) (s : State), PortIdle s →
     exec (.setFeedback .frameEnd (byteOf i.val) (indexByte h)) s = .next
         { s with
           lanes := { s.lanes with feedback := s.lanes.feedback.set i.val h },
           port := framePort s .ok ((s.lanes.feedback.set i.val h).toList.map indexByte) }
     ∧ exec (.setFeedback .frameEnd 255 x) s = .next
         { s with port := framePort s .ok (s.lanes.feedback.toList.map indexByte) })

/-- The pick takes the candidate with the lowest due round, then the lowest mastery, then the lowest index; while there is
a candidate it takes one, whatever its due round; and the same deck and previous word give the same pick (R38). -/
def Obligations.PickTakesTheLowest : Prop :=
  ∀ (k : Seat) (s : State),
    (∀ w : WordIndex,
      pickWord k s = some w ↔
        w ∈ pickCandidates k s ∧ ∀ v ∈ pickCandidates k s,
          (s.progress w k).due.toNat < (s.progress v k).due.toNat
          ∨ ((s.progress w k).due = (s.progress v k).due
            ∧ ((s.progress w k).mastery.toNat < (s.progress v k).mastery.toNat
              ∨ ((s.progress w k).mastery = (s.progress v k).mastery ∧ w.val ≤ v.val))))
    ∧ (pickCandidates k s ≠ [] → ∃ w, pickWord k s = some w)
    ∧ ∀ t : State, t.deck = s.deck → (t.seat k).previousWord = (s.seat k).previousWord → pickWord k t = pickWord k s

/-- The candidates are the enabled words without the previous one, unless it is the only enabled word (R37), and there is
none exactly when no word is enabled (R39). That a previous word which was disabled and enabled again is left out too is
the model's choice (R28, log 30). -/
def Obligations.PickCandidatesAreTheEnabledWords : Prop :=
  ∀ (k : Seat) (s : State),
    (∀ w : WordIndex, w ∈ pickCandidates k s ↔
      (s.word w).enabled = true
        ∧ ((s.seat k).previousWord ≠ some w ∨ ∀ v : WordIndex, (s.word v).enabled = true → v = w))
    ∧ (pickWord k s = none ↔ ∀ w : WordIndex, (s.word w).enabled = false)

/-! ## Phrases and speech -/

/-- WRITE_PHRASE (R101, R102): an EMPTY handle takes the lowest free pages, and its items read back in their order; a
handle that is not EMPTY is IN_USE, too few pages are NO_SPACE. -/
def Obligations.WritePhraseStoresTheItems : Prop :=
  ∀ (h : Handle) (oneShot : Bool) (items : List Item) (n : TwoBytes) (s : State), PortIdle s → PagesAccounted s →
    1 ≤ items.length → items.length ≤ 128 → (∀ i ∈ items, itemOk i = true) →
    (wordOf n).toNat = 2 + 2 * items.length →
    let pages := (items.length + 15) / 16
    let c : Instr :=
      .writePhrase .frameEnd n ([byteOf h.val, if oneShot then 2 else 1] ++ items.flatMap itemBytes)
    ((s.handle h).state = .empty → pages ≤ s.phrases.free.length →
      ∃ t, exec c s = .next t ∧ t = { s with phrases := t.phrases, port := framePort s .ok [] }
        ∧ t.phrases.free = s.phrases.free.drop pages
        ∧ t.phrases.handles =
            s.phrases.handles.set h.val
              { state := if oneShot then .oneShot else .kept, itemCount := items.length,
                chain := s.phrases.free.take pages, references := 0 }
        ∧ (∀ k, k < items.length → phraseItem h (k + 1) t = items[k]?)
        ∧ ∀ p : Page, p ∉ s.phrases.free.take pages → t.phrases.pages[p.val] = s.phrases.pages[p.val])
    ∧ ((s.handle h).state ≠ .empty → exec c s = .next { s with port := framePort s .inUse [] })
    ∧ ((s.handle h).state = .empty → s.phrases.free.length < pages →
        exec c s = .next { s with port := framePort s .noSpace [] })

/-- FREE_PHRASE (R105, R106): without references the pages are back at once and the handle is EMPTY; with some it waits as
RELEASING; an EMPTY or RELEASING handle is refused with STATE. -/
def Obligations.FreePhraseReturnsThePages : Prop :=
  ∀ (h : Handle) (s : State), PortIdle s →
    let r := s.handle h
    let c : Instr := .freePhrase .frameEnd (byteOf h.val)
    ((r.state = .kept ∨ r.state = .oneShot) → r.references = 0 →
      ∃ t, exec c s = .next t ∧ t = { s with phrases := t.phrases, port := framePort s .ok [] }
        ∧ t.phrases.pages = s.phrases.pages ∧ (∀ p, t.phrases.free.count p = s.phrases.free.count p + r.chain.count p)
        ∧ t.phrases.handles =
            s.phrases.handles.set h.val { state := .empty, itemCount := 0, chain := [], references := 0 })
    ∧ ((r.state = .kept ∨ r.state = .oneShot) → r.references ≠ 0 →
      exec c s = .next
        { s with
          phrases := { s.phrases with handles := s.phrases.handles.set h.val { r with state := .releasing } },
          port := framePort s .ok [] })
    ∧ ((r.state = .empty ∨ r.state = .releasing) → exec c s = .next { s with port := framePort s .state [] })

/-- SAY to the system lane (R120, R121): a KEPT or ONE-SHOT handle with room joins with its channel and tag, takes its
reference and raises SRQ when nothing is in flight and the lane was empty; otherwise STATE or NO_SPACE, and nothing
changes. SAY to a seat (R118): accepted while the prompt lane holds 0 or 1 entries; the seat's idle timer stops (R64). A
seat in OFF, or a handle that is EMPTY or RELEASING, is STATE; 2 or more entries are NO_SPACE. The channel byte is not
looked at (R185). -/
def Obligations.SayJoinsItsLane : Prop :=
  (∀ (h : Handle) (channel : Channel) (tag : Byte) (s : State), PortIdle s → LinesFollow s →
     let r := s.handle h
     let c : Instr := .say .frameEnd (byteOf h.val) 0 (channelCode channel) tag
     ((r.state = .kept ∨ r.state = .oneShot) → (s.lane .system).length < 4 →
       ∃ t, exec c s = .next t
         ∧ t = { s with
             phrases :=
               { s.phrases with
                 handles :=
                   s.phrases.handles.set h.val
                     { r with
                       references := r.references + 1, state := if r.state = .oneShot then .releasing else .kept } },
             lanes :=
               { s.lanes with
                 system := s.lanes.system ++ [freshEntry s (.phrase h) .lessonSay none (some channel) tag] },
             nextEntryId := s.nextEntryId + 1, port := framePort s .ok [], pins := t.pins }
         ∧ (s.link.inFlight = none → s.lane .system = [] → t.pins.srq = true))
     ∧ ((r.state = .empty ∨ r.state = .releasing) → exec c s = .next { s with port := framePort s .state [] })
     ∧ ((r.state = .kept ∨ r.state = .oneShot) → 4 ≤ (s.lane .system).length →
         exec c s = .next { s with port := framePort s .noSpace [] }))
  ∧ (∀ (h : Handle) (k : Seat) (channel tag : Byte) (s : State), PortIdle s → LinesFollow s →
     let r := s.handle h
     let c : Instr := .say .frameEnd (byteOf h.val) (seatCode k + 1) channel tag
     ((s.seat k).state ≠ .off → (r.state = .kept ∨ r.state = .oneShot) → (s.lane (.prompt k)).length < 2 →
       ∃ t, exec c s = .next t
         ∧ t = { s with
             seats := s.seats.set k { s.seat k with idleTimer := none },
             phrases :=
               { s.phrases with
                 handles :=
                   s.phrases.handles.set h.val
                     { r with
                       references := r.references + 1, state := if r.state = .oneShot then .releasing else .kept } },
             lanes :=
               { s.lanes with
                 prompt :=
                   s.lanes.prompt.set k
                     (s.lane (.prompt k) ++ [freshEntry s (.phrase h) .lessonSay (some k) none tag]) },
             nextEntryId := s.nextEntryId + 1, port := framePort s .ok [], pins := t.pins })
     ∧ ((s.seat k).state = .off ∨ r.state = .empty ∨ r.state = .releasing →
         exec c s = .next { s with port := framePort s .state [] })
     ∧ ((s.seat k).state ≠ .off → (r.state = .kept ∨ r.state = .oneShot) → 2 ≤ (s.lane (.prompt k)).length →
         exec c s = .next { s with port := framePort s .noSpace [] }))

/-- SET_SEAT (R42): in OFF and IDLE all settings and the round are written, each pulled into range, and the reply gives
them; in any other state STATE, with the same reply. -/
def Obligations.SetSeatWritesTheSettings : Prop :=
  ∀ (k : Seat) (check : CheckMode) (tries gain timeout limit : Byte) (echo bargeIn autoNext flush : Bool)
    (round : TwoBytes) (s : State), PortIdle s →
    ∃ x : Settings,
      x.check = check ∧ Clamped 1 3 tries x.triesAllowed ∧ Clamped 1 8 gain x.gain ∧ x.echo = echo
      ∧ x.bargeIn = bargeIn ∧ x.autoNext = autoNext ∧ x.flush = flush
      ∧ (timeout = 0 → x.idleTimeout = 0) ∧ (timeout ≠ 0 → Clamped 2 60 timeout x.idleTimeout)
      ∧ Clamped 1 7 limit x.nudgeLimit
      ∧ (let reply :=
          [checkCode check, x.triesAllowed, x.gain, flagByte echo, flagByte bargeIn, flagByte autoNext, flagByte flush,
            x.idleTimeout, x.nudgeLimit] ++ [round.first, round.second]
        let c : Instr :=
          .setSeat .frameEnd (seatCode k) (checkCode check) tries gain (flagByte echo) (flagByte bargeIn)
            (flagByte autoNext) (flagByte flush) timeout limit round
        (((s.seat k).state = .off ∨ (s.seat k).state = .idle) →
          exec c s = .next
            { s with
              seats := s.seats.set k { s.seat k with settings := x, round := wordOf round },
              port := framePort s .ok reply })
        ∧ ((s.seat k).state ≠ .off → (s.seat k).state ≠ .idle →
          exec c s = .next { s with port := framePort s .state reply }))

/-- START_SEAT (R43): OFF to IDLE, shown in the image; STATE in any other state. -/
def Obligations.StartSeatBringsIntoUse : Prop :=
  ∀ (k : Seat) (s : State), PortIdle s → LinesFollow s → ImagesFollow s →
    ((s.seat k).state = .off →
      ∃ t, exec (.startSeat .frameEnd (seatCode k)) s = .next t
        ∧ t = { s with
            seats := s.seats.set k { s.seat k with state := .idle },
            mirror :=
              { s.mirror with
                live :=
                  s.mirror.live.set k
                    { s.mirror.live.get k with
                      state := .idle, generation := (s.mirror.live.get k).generation + 1 } },
            port := framePort s .ok [], pins := t.pins })
    ∧ ((s.seat k).state ≠ .off →
      exec (.startSeat .frameEnd (seatCode k)) s = .next { s with port := framePort s .state [] })

/-- NEXT_WORD (R48, R49, R46, R126). In IDLE with an index: the word is presented, with its prompt or, when that is missing,
straight in ENTRY with NO_PROMPT; keys that wait are taken then, here one letter with flush, barge-in and echo off. In
PRESENT and ENTRY the word is abandoned first: the seat's queued drill entries leave, its LESSON_SAYs stay, its drill entry
that streams is marked cut-pending. Without an index a pick that finds a word gives what its index gives. In an empty deck a
seat in IDLE stays there, one in PRESENT or ENTRY goes there, and DECK_EMPTY is posted, answered OK. In OFF, REVIEW and
PAUSED it is refused with STATE. -/
def Obligations.NextWordPresentsTheWord : Prop :=
  let noKeys (k : Seat) (s : State) : Prop := (s.seat k).settings.flush = true ∨ s.keyQueue k = []
  (∀ (k : Seat) (w : WordIndex) (s : State), PortIdle s → LinesFollow s → ImagesFollow s →
     (s.seat k).state = .idle → (s.word w).enabled = true →
     let c : Instr := .nextWord .frameEnd (seatCode k) (byteOf w.val)
     (∀ h, (s.word w).prompt = some h → (s.handle h).state = .kept → (s.lane (.prompt k)).length < 4 →
       (noKeys k s →
         ∃ t, exec c s = .next t ∧ t = { wordPresented k w h s with port := framePort s .ok [], pins := t.pins })
       ∧ (∀ (letter : Byte) (stamp : Word16) (overrun : Bool), 1 ≤ letter.toNat → letter.toNat ≤ 27 →
         (s.seat k).settings.flush = false → (s.seat k).settings.bargeIn = false → (s.seat k).settings.echo = false →
         (s.seat k).settings.check = .whole →
         s.keyQueue k = [{ code := letter, kind := .press, stamp := stamp, overrun := overrun }] →
         let p := wordPresented k w h s
         let line : List Symbol := [{ letter := letter, origin := .typed, mark := .unchecked }]
         ∃ t, exec c s = .next t
           ∧ t = { p with
               seats := p.seats.set k { p.seat k with state := .entry, line := line },
               keyQueues := s.keyQueues.set k [],
               mirror := { p.mirror with live := liveWith k .entry (s.word w).letters.length .none 1 line p },
               port := framePort s .ok [], pins := t.pins }))
     ∧ ((∀ h, (s.word w).prompt = some h → (s.handle h).state ≠ .kept ∨ 4 ≤ (s.lane (.prompt k)).length) →
       s.reports.queue.length < 16 → noKeys k s →
       let idle :=
         if ∀ e ∈ s.lane (.prompt k) ++ s.lane (.echo k), e.seat ≠ some k then startedIdle (s.seat k) else none
       ∃ t, exec c s = .next t
         ∧ t = { s with
             seats := s.seats.set k (freshSeat w .entry none idle (s.seat k)),
             keyQueues := flushedKeys k s,
             mirror := { s.mirror with live := liveWith k .entry (s.word w).letters.length .none 1 [] s },
             reports := withRecord s (.seatEvent k .noPrompt), port := framePort s .ok [], pins := t.pins }))
  ∧ (∀ (k : Seat) (w : WordIndex) (g h : Handle) (e : SpeechEntry) (spoken : List SpeechEntry) (s : State), PortIdle s →
     LinesFollow s → ImagesFollow s → SpeechAccounted s → ((s.seat k).state = .present ∨ (s.seat k).state = .entry) →
     (s.word w).enabled = true → (s.word w).prompt = some h → (s.handle h).state = .kept → noKeys k s →
     (s.seat k).reviewFeedback = none → s.lane (.prompt k) = e :: spoken → spoken.length ≤ 2 →
     (∀ x ∈ spoken, x.origin = .lessonSay) → e.origin ≠ .lessonSay → e.seat = some k → e.tag = 0 →
     e.content = .phrase g → (s.handle g).state = .kept →
     (∀ x ∈ s.lane (.echo k), x.state = .queued ∧ x.seat = some k ∧ x.origin = .drillEcho ∧ x.tag = 0) →
     let abandoned (prompts : List SpeechEntry) (t : State) : State :=
       { t with lanes := { s.lanes with prompt := s.lanes.prompt.set k prompts, echo := s.lanes.echo.set k [] } }
     let c : Instr := .nextWord .frameEnd (seatCode k) (byteOf w.val)
     (e.state = .queued → (∀ u, s.link.inFlight = some u → u.lane = .system) →
       ∃ t, exec c s = .next t
         ∧ t = { wordPresented k w h (abandoned spoken (referenceGivenUp g s)) with
             port := framePort s .ok [], pins := t.pins })
     ∧ (∀ u, e.state = .streaming → s.link.inFlight = some u → u.lane = .prompt k →
       ∃ t, exec c s = .next t
         ∧ t = { wordPresented k w h (abandoned ({ e with cutPending := true } :: spoken) s) with
             port := framePort s .ok [], pins := t.pins }))
  ∧ (∀ (k : Seat) (w : WordIndex) (s : State), PortIdle s →
     ((s.seat k).state = .idle ∨ (s.seat k).state = .present ∨ (s.seat k).state = .entry) → pickWord k s = some w →
     exec (.nextWord .frameEnd (seatCode k) 255) s = exec (.nextWord .frameEnd (seatCode k) (byteOf w.val)) s)
  ∧ (∀ (k : Seat) (s : State), PortIdle s → LinesFollow s → ImagesFollow s → (∀ w, (s.word w).enabled = false) →
     s.reports.queue.length < 16 →
     ((s.seat k).state = .idle →
       ∃ t, exec (.nextWord .frameEnd (seatCode k) 255) s = .next t
         ∧ t = { s with
             reports := withRecord s (.seatEvent k .deckEmpty), port := framePort s .ok [], pins := t.pins })
     ∧ ((s.seat k).state = .present ∨ (s.seat k).state = .entry → s.lane (.prompt k) = [] → s.lane (.echo k) = [] →
       (∀ u, s.link.inFlight = some u → u.lane = .system) → SpeechAccounted s →
       ∃ t, exec (.nextWord .frameEnd (seatCode k) 255) s = .next t
         ∧ t = { s with
             seats :=
               s.seats.set k
                 { s.seat k with
                   state := .idle, currentWord := none, line := [], nudges := 0, entryMs := 0,
                   presentationPrompt := none, idleTimer := none },
             keyQueues := s.keyQueues.set k [],
             mirror :=
               { s.mirror with
                 live := liveWith k .idle 0 (s.mirror.live.get k).verdict (s.seat k).tries [] s },
             reports := withRecord s (.seatEvent k .deckEmpty), port := framePort s .ok [], pins := t.pins }))
  ∧ (∀ (k : Seat) (x : Byte) (s : State), PortIdle s →
     (x = 255 ∨ ∃ w : WordIndex, x = byteOf w.val ∧ (s.word w).enabled = true) →
     (s.seat k).state ≠ .idle → (s.seat k).state ≠ .present → (s.seat k).state ≠ .entry →
     exec (.nextWord .frameEnd (seatCode k) x) s = .next { s with port := framePort s .state [] })

/-- PAUSE_SEAT in PRESENT, ENTRY or REVIEW (R68, R70): PAUSED(LESSON) with that state as the resume point, the idle timer
stopped, no event. A seat already paused only changes its reason. OFF and IDLE are refused with STATE. RESUME_SEAT from a
pause for any reason (R69): the nudge count 0, no event, and at the resume point PRESENT or ENTRY the idle timer started if
its conditions hold (R64); REVIEW(RETRY) with its feedback pending stays, without it the retry is carried out (R60);
REVIEW(FINAL) with a flag pending stays, without one the seat goes to IDLE, its keys discarded, or on to a picked word
(R63). A key that waits is taken when the seat comes to PRESENT or ENTRY, here one letter with barge-in and echo off. It is
the resume that a PAUSE key brings too (R67). A seat that is not paused is refused with STATE. -/
def Obligations.PauseAndResumeKeepThePlace : Prop :=
  (∀ (k : Seat) (point : ResumePoint) (s : State), PortIdle s → LinesFollow s → ImagesFollow s →
     ((s.seat k).state = resumedState point →
       ∃ t, exec (.pauseSeat .frameEnd (seatCode k)) s = .next t
         ∧ t = { s with
             seats := s.seats.set k { s.seat k with state := .paused .lesson point, idleTimer := none },
             mirror :=
               { s.mirror with
                 live :=
                   s.mirror.live.set k
                     { s.mirror.live.get k with
                       state := .paused, generation := (s.mirror.live.get k).generation + 1 } },
             port := framePort s .ok [], pins := t.pins })
     ∧ (∀ reason, (s.seat k).state = .paused reason point →
       exec (.pauseSeat .frameEnd (seatCode k)) s = .next
         { s with
           seats := s.seats.set k { s.seat k with state := .paused .lesson point },
           port := framePort s .ok [] })
     ∧ ((s.seat k).state = .off ∨ (s.seat k).state = .idle →
       exec (.pauseSeat .frameEnd (seatCode k)) s = .next { s with port := framePort s .state [] }))
  ∧ (∀ (k : Seat) (reason : PauseReason) (s : State), PortIdle s → LinesFollow s → ImagesFollow s →
     let c := s.seat k
     let length := (s.target k).length
     let verdict := (s.mirror.live.get k).verdict
     let idle := if ∀ e ∈ s.lane (.prompt k) ++ s.lane (.echo k), e.seat ≠ some k then startedIdle c else none
     let shown (x : ShownState) : Pair Image := liveWith k x length verdict c.tries c.line s
     let showing (live : Pair Image) : State := { s with mirror := { s.mirror with live := live } }
     let becomes (c' : SeatContext) (keys : List KeyEntry) (live : Pair Image) : Prop :=
       ∃ t, exec (.resumeSeat .frameEnd (seatCode k)) s = .next t
         ∧ t = { showing live with
             seats := s.seats.set k { c' with nudges := 0 }, keyQueues := s.keyQueues.set k keys,
             port := framePort s .ok [], pins := t.pins }
     let becomesAndTakes (c' : SeatContext) (live : Pair Image) : Prop :=
       (s.keyQueue k = [] → becomes c' [] live)
       ∧ (∀ (letter : Byte) (stamp : Word16) (overrun : Bool), 1 ≤ letter.toNat → letter.toNat ≤ 27 →
         c'.line.length < 20 → c.settings.bargeIn = false → c.settings.echo = false → c.settings.check = .whole →
         s.keyQueue k = [{ code := letter, kind := .press, stamp := stamp, overrun := overrun }] →
         let line := c'.line ++ [{ letter := letter, origin := .typed, mark := .unchecked }]
         becomes { c' with state := .entry, line := line } []
           (liveWith k .entry length verdict c'.tries line (showing live)))
     (c.state = .paused reason .present →
       becomesAndTakes { c with state := .present, idleTimer := idle } (shown .present))
     ∧ (c.state = .paused reason .entry →
       becomesAndTakes { c with state := .entry, idleTimer := idle } (shown .entry))
     ∧ (c.state = .paused reason (.review .retry) →
       (c.reviewFeedback ≠ none → becomes { c with state := .review .retry } (s.keyQueue k) (shown .review))
       ∧ (c.reviewFeedback = none →
         becomesAndTakes { c with state := .entry, line := [], tries := c.tries + 1, idleTimer := idle }
           (liveWith k .entry length verdict (c.tries + 1) [] (showing (shown .review)))))
     ∧ (c.state = .paused reason (.review .final) →
       (c.reviewFeedback ≠ none ∨ c.pendingResult ≠ none →
         becomes { c with state := .review .final } (s.keyQueue k) (shown .review))
       ∧ (c.reviewFeedback = none → c.pendingResult = none →
         (c.settings.autoNext = false →
           becomes { c with state := .idle, currentWord := none, line := [] } []
             (liveWith k .idle 0 verdict c.tries [] (showing (shown .review))))
         ∧ (∀ w h, c.settings.autoNext = true → pickWord k s = some w → (s.word w).prompt = some h →
           (s.handle h).state = .kept → (s.lane (.prompt k)).length < 4 →
           (c.settings.flush = true ∨ s.keyQueue k = []) →
           ∃ t, exec (.resumeSeat .frameEnd (seatCode k)) s = .next t
             ∧ t = { wordPresented k w h (showing (shown .review)) with port := framePort s .ok [], pins := t.pins })))
     ∧ (∀ point, c.state = .paused reason point →
       ∃ t, exec (.resumeSeat .frameEnd (seatCode k)) s = .next t
         ∧ t = { settle (resume k s) with port := framePort s .ok [], pins := t.pins })
     ∧ ((∀ r point, c.state ≠ .paused r point) →
       exec (.resumeSeat .frameEnd (seatCode k)) s = .next { s with port := framePort s .state [] }))

/-- STOP_SEAT (R44, R127): from any state but OFF, with whatever speech and result is waiting. The seat keeps its round and
its settings only; its keys and queued entries are gone; the other seat with its lanes, the deck, the keyboards and the
pages' contents stay. Its waiting entries leave as CANCELLED, the prompt lane's first, and the tagged ones offer a
SPEECH_DONE with channel none; a pending result brings no report. Its entry in flight stays, orphaned, and marked
cut-pending when it is STREAMING; an orphan of an earlier stop stays as it is. In OFF it is refused with STATE. -/
def Obligations.StopSeatClearsTheSeat : Prop :=
  ∀ (k : Seat) (s : State), PortIdle s → LinesFollow s → SpeechAccounted s →
    ((s.seat k).state ≠ .off →
      ∃ t, exec (.stopSeat .frameEnd (seatCode k)) s = .next t
        ∧ t.seat k =
            { state := .off, currentWord := none, previousWord := none, round := (s.seat k).round, line := [],
              tries := 1, hints := 0, replays := 0, overtyped := 0, nudges := 0, idleTimer := none, entryMs := 0,
              pendingResult := none, presentationPrompt := none, reviewFeedback := none,
              settings := (s.seat k).settings }
        ∧ t.seat (otherSeat k) = s.seat (otherSeat k)
        ∧ t.keyQueue k = [] ∧ t.keyQueue (otherSeat k) = s.keyQueue (otherSeat k)
        ∧ (∀ e ∈ t.lane (.prompt k) ++ t.lane (.echo k), e.seat = some k → e.state ≠ .queued)
        ∧ t.lane .system = s.lane .system
        ∧ t.lane (.prompt (otherSeat k)) = s.lane (.prompt (otherSeat k))
        ∧ t.lane (.echo (otherSeat k)) = s.lane (.echo (otherSeat k))
        ∧ (let stopped (waiting : List SpeechEntry) : Prop :=
             t.reports =
               ((waiting.filter fun e => decide (e.tag ≠ 0)).foldl
                 (fun x e => { x with reports := offered x (.speechDone e.tag .cancelled (some k) none) }) s).reports
           ((∀ u, s.link.inFlight = some u → u.lane ≠ .prompt k ∧ u.lane ≠ .echo k) →
             (∀ e ∈ s.lane (.prompt k) ++ s.lane (.echo k), Waits k e) →
             t.lane (.prompt k) = [] ∧ t.lane (.echo k) = [] ∧ stopped (s.lane (.prompt k) ++ s.lane (.echo k)))
           ∧ (∀ (u : Utterance) (e : SpeechEntry) (prompts echoes : List SpeechEntry), s.link.inFlight = some u →
             (∀ x ∈ prompts ++ echoes, Waits k x) → e.state ≠ .queued → (e.seat = some k ∨ e.seat = none) →
             let orphan : SpeechEntry :=
               if e.seat = some k then
                 { e with seat := none, cutPending := e.cutPending || decide (e.state = .streaming) }
               else e
             (u.lane = .prompt k → s.lane (.prompt k) = e :: prompts → s.lane (.echo k) = echoes →
               t.lane (.prompt k) = [orphan] ∧ t.lane (.echo k) = [] ∧ stopped (prompts ++ echoes))
             ∧ (u.lane = .echo k → s.lane (.prompt k) = prompts → s.lane (.echo k) = e :: echoes →
               t.lane (.prompt k) = [] ∧ t.lane (.echo k) = [orphan] ∧ stopped (prompts ++ echoes))))
        ∧ (t.mirror.live.get k).state = .off ∧ (t.mirror.live.get k).targetLength = 0
        ∧ (t.mirror.live.get k).verdict = .none ∧ (t.mirror.live.get k).tries = 1
        ∧ (t.mirror.live.get k).symbols = [] ∧ t.mirror.live.get (otherSeat k) = s.mirror.live.get (otherSeat k)
        ∧ t = { s with
            seats := t.seats, keyQueues := t.keyQueues, phrases := { s.phrases with
              free := t.phrases.free, handles := t.phrases.handles },
            lanes := { s.lanes with system := t.lanes.system, prompt := t.lanes.prompt, echo := t.lanes.echo },
            reports := t.reports, mirror := { s.mirror with live := t.mirror.live },
            port := framePort s .ok [], pins := t.pins })
    ∧ ((s.seat k).state = .off →
      exec (.stopSeat .frameEnd (seatCode k)) s = .next { s with port := framePort s .state [] })

/-- READ_SEAT (R74): 54 bytes for a seat in any state, and nothing changes. The review byte, the pause reason and the resume
point are 255 where the state has none; the queue's head is 255, 255, 0, 0 when the queue is empty. -/
def Obligations.ReadSeatShowsTheContext : Prop :=
  ∀ (k : Seat) (s : State), PortIdle s →
    let c := s.seat k
    let q := s.keyQueue k
    let review (phase : ReviewPhase) : Byte :=
      (match phase with | .retry => 0 | .final => 1) + (if c.reviewFeedback ≠ none then 2 else 0)
        + (if c.pendingResult ≠ none then 4 else 0)
    let reason (r : PauseReason) : Byte := match r with | .child => 0 | .lesson => 1 | .gone => 2
    let state : List Byte :=
      match c.state with
      | .off => [0, 255, 255, 255]
      | .idle => [1, 255, 255, 255]
      | .present => [2, 255, 255, 255]
      | .entry => [3, 255, 255, 255]
      | .review phase => [4, review phase, 255, 255]
      | .paused r .present => [5, 255, reason r, 2]
      | .paused r .entry => [5, 255, reason r, 3]
      | .paused r (.review phase) => [5, review phase, reason r, 4]
    let head : List Byte :=
      match q with
      | [] => [255, 255, 0, 0]
      | e :: _ => [e.code, (match e.kind with | .press => 0 | .repeated => 1 | .mash => 2)] ++ bytes16 e.stamp
    let reply : List Byte :=
      state ++ [indexByte c.currentWord, indexByte c.previousWord] ++ bytes16 c.round
        ++ [c.tries, c.hints, c.replays, c.overtyped, c.nudges] ++ bytes16 c.entryTime
        ++ [if c.pendingResult ≠ none then 1 else 0, byteOf c.line.length] ++ symbolBytes c.line
        ++ [byteOf q.length] ++ head ++ [if ∃ e ∈ q, e.overrun = true then 1 else 0]
        ++ [checkCode c.settings.check, c.settings.triesAllowed, c.settings.gain, flagByte c.settings.echo,
            flagByte c.settings.bargeIn, flagByte c.settings.autoNext, flagByte c.settings.flush,
            c.settings.idleTimeout, c.settings.nudgeLimit] ++ bytes16 c.round
    reply.length = 54 ∧ exec (.readSeat .frameEnd (seatCode k)) s = .next { s with port := framePort s .ok reply }

/-! ## Reports, attention, faults -/

/-- READ_REPORTS (R153, R154): the reply is the count and the records, oldest first, then filler; the frame takes exactly the
records clocked out whole, here with no seat holding and no step meeting its end (log 4). With such steps it goes on too,
with the same reply. -/
def Obligations.ReadReportsTakesWholeRecords : Prop :=
  ∀ (clocked : Nat) (room : RoomOrder) (s : State), PortIdle s →
    let r := min s.reports.queue.length ((clocked - 1) / 16)
    let reply := byteOf s.reports.queue.length :: s.reports.queue.flatMap recordBytes
    (LinesFollow s → (∀ k, (s.seat k).pendingResult = none) → room.met = [] →
      ∃ t, exec (.readReports .frameEnd clocked room) s = .next t
        ∧ t = { s with
            reports := { s.reports with queue := s.reports.queue.drop r, agedPending := t.reports.agedPending },
            port := framePort s .ok reply, pins := t.pins }
        ∧ (r = 0 → t.reports = s.reports))
    ∧ (∃ t, exec (.readReports .frameEnd clocked room) s = .next t ∧ t.port = framePort s .ok reply
        ∧ ∀ n, 1 + 16 * s.reports.queue.length ≤ n → t.lessonByte n = 255)

/-- Room in a full report queue (R152, R62, R61, R33). One holding seat, whose feedback still plays or whose result alone keeps
it in REVIEW: its result joins the queue, the deck takes the figures, the round moves by one, the previous word is the
current one and nothing is pending; in the second case, with auto-next off, it goes to IDLE (R63). A record of another block
that is first takes the slot, here the SPEECH_DONE of a DONE that meets the frame end, and the seat keeps holding. Two
holding seats and one free slot: the one that offers first posts, the other keeps holding. Two free slots: both post. That
the orders are operands of READ_REPORTS is the model's choice (log 4). -/
def Obligations.RoomLetsAHoldingSeatPost : Prop :=
  let port (s : State) : LessonPort :=
    framePort s .ok (byteOf s.reports.queue.length :: s.reports.queue.flatMap recordBytes)
  let holds (k : Seat) (p : PendingResult) (s : State) : Prop :=
    ((s.seat k).state = .review .final ∨ ∃ reason, (s.seat k).state = .paused reason (.review .final))
      ∧ (s.seat k).pendingResult = some p ∧ p.result.seat = k
  (∀ (k : Seat) (p : PendingResult) (room : RoomOrder) (s : State), PortIdle s → LinesFollow s → holds k p s →
     (s.seat (otherSeat k)).pendingResult = none → s.reports.queue.length = 16 →
     let posted := resultTaken k p (lessRecords 1 s)
     ((s.seat k).reviewFeedback ≠ none ∨ (s.seat k).state ≠ .review .final → room.met = [] →
       ∃ t, exec (.readReports .frameEnd 17 room) s = .next t ∧ t = { posted with port := port s, pins := t.pins })
     ∧ ((s.seat k).reviewFeedback = none → (s.seat k).state = .review .final → (s.seat k).settings.autoNext = false →
       room.met = [] → ImagesFollow s →
       ∃ t, exec (.readReports .frameEnd 17 room) s = .next t
         ∧ t = { posted with
             seats := s.seats.set k { posted.seat k with state := .idle, currentWord := none, line := [] },
             keyQueues := s.keyQueues.set k [],
             mirror :=
               { s.mirror with
                 live := liveWith k .idle 0 (s.mirror.live.get k).verdict (s.seat k).tries [] s },
             port := port s, pins := t.pins })
     ∧ (∀ (u : Utterance) (e : SpeechEntry) (rest : List SpeechEntry) (h : Handle),
       room.met = [.engineDone u.serial 1] → s.link.fetched = true → s.link.inFlight = some u → u.lane = .system →
       s.lane .system = e :: rest → e.seat = none → e.content = .phrase h → (s.handle h).state = .kept → e.tag ≠ 0 →
       let spoken := referenceGivenUp h (lessRecords 1 s)
       ∃ t, exec (.readReports .frameEnd 17 room) s = .next t
         ∧ t = { spoken with
             lanes := { s.lanes with system := rest }, link := linkDone s,
             reports := withRecord spoken (.speechDone e.tag .played none e.channel), port := port s, pins := t.pins }))
  ∧ (∀ (p q : PendingResult) (i j : Nat) (room : RoomOrder) (s : State), PortIdle s → LinesFollow s →
     let x := room.first
     let y := otherSeat room.first
     holds x p s → holds y q s → (s.seat x).reviewFeedback = some i → (s.seat y).reviewFeedback = some j →
     s.reports.queue.length = 16 → room.met = [] →
     (∃ t, exec (.readReports .frameEnd 17 room) s = .next t
        ∧ t = { resultTaken x p (lessRecords 1 s) with port := port s, pins := t.pins })
     ∧ (∃ t, exec (.readReports .frameEnd 33 room) s = .next t
        ∧ t = { resultTaken y q (resultTaken x p (lessRecords 2 s)) with port := port s, pins := t.pins }))

/-- READ_CAUSE (R158) answers the top cause by rank (FAULT, HOLD, LEVEL, AGED, NONE), the pending set and the count, and
READ_FAULT (R160) the fault record; both change nothing. CLEAR_FAULT (R161): the reply shows the record, and the record is
emptied; the counters stay; on an empty record it changes nothing. -/
def Obligations.ReportReadsAndClearFault : Prop :=
  (∀ s : State, PortIdle s → LinesFollow s →
     let fault := s.reports.fault ≠ none ∧ s.reports.enables.fault = true
     let hold := (∃ k, (s.seat k).pendingResult ≠ none) ∧ s.reports.enables.hold = true
     let level := s.reports.trigger.toNat ≤ s.reports.queue.length ∧ s.reports.enables.level = true
     let aged := s.reports.agedPending = true ∧ s.reports.enables.aged = true
     (∃ top pending : Byte,
       exec (.readCause .frameEnd) s = .next
         { s with port := framePort s .ok [top, pending, byteOf s.reports.queue.length] }
       ∧ (top = 0 ↔ s.pins.attn = false)
       ∧ (top = 1 ↔ fault)
       ∧ (top = 2 ↔ ¬ fault ∧ hold)
       ∧ (top = 3 ↔ ¬ fault ∧ ¬ hold ∧ level)
       ∧ (top = 4 ↔ ¬ fault ∧ ¬ hold ∧ ¬ level ∧ aged)
       ∧ pending.toNat < 16
       ∧ (pending.getLsbD 0 = true ↔ s.reports.fault ≠ none)
       ∧ (pending.getLsbD 1 = true ↔ ∃ k, (s.seat k).pendingResult ≠ none)
       ∧ (pending.getLsbD 2 = true ↔ s.reports.trigger.toNat ≤ s.reports.queue.length)
       ∧ pending.getLsbD 3 = s.reports.agedPending)
     ∧ (s.reports.fault = none →
       exec (.readFault .frameEnd) s = .next { s with port := framePort s .ok [0, 0, 0, 0, 0, 0, 0, 0] }
       ∧ exec (.clearFault .frameEnd) s = .next { s with port := framePort s .ok [0, 0, 0, 0, 0, 0, 0, 0] })
     ∧ (∀ f, s.reports.fault = some f →
       exec (.readFault .frameEnd) s = .next
         { s with port := framePort s .ok ([1, faultKindCode f.kind, f.detail] ++ bytes32 f.stamp ++ [f.extra]) }))
  ∧ (∀ (f : FaultRecord) (s : State), PortIdle s → LinesFollow s → s.reports.fault = some f →
     ∃ t, exec (.clearFault .frameEnd) s = .next t
       ∧ t = { s with
           reports := { s.reports with fault := none },
           port := framePort s .ok ([1, faultKindCode f.kind, f.detail] ++ bytes32 f.stamp ++ [f.extra]),
           pins := t.pins })

/-- SET_CAUSES (R157): enables, trigger and T_age are stored pulled into range, and the causes are worked out afresh. -/
def Obligations.SetCausesStoresAndWorksOut : Prop :=
  ∀ (enables trigger : Byte) (tAge : TwoBytes) (s : State), PortIdle s → LinesFollow s →
    ∃ t, exec (.setCauses .frameEnd enables trigger tAge) s = .next t
      ∧ t = { s with
          reports :=
            { s.reports with
              enables :=
                { fault := enables.getLsbD 0, hold := enables.getLsbD 1, level := enables.getLsbD 2,
                  aged := enables.getLsbD 3 },
              trigger := t.reports.trigger, tAge := t.reports.tAge, agedPending := t.reports.agedPending },
          port := framePort s .ok t.port.reply, pins := t.pins }
      ∧ t.port.reply = [enables &&& 15, t.reports.trigger] ++ bytes16 t.reports.tAge
      ∧ Clamped 1 16 trigger t.reports.trigger
      ∧ (wordOf tAge = 0 → t.reports.tAge = 0) ∧ (wordOf tAge ≠ 0 → Clamped 10 2000 (wordOf tAge) t.reports.tAge)
      ∧ (t.reports.agedPending = true ↔
          t.reports.tAge ≠ 0 ∧ ∃ r rest, s.reports.queue = r :: rest
            ∧ t.reports.tAge.toNat ≤ (s.clock - r.stamp).toNat)

/-- READ_COUNTERS (R162): the nine counters in their order; with bit 0 of the flag byte each is reduced at the end of the frame
by what was shown, which is all of it when nothing counted in between, and else leaves exactly the counts since the reply,
up to 65535, whether or not the counter met 65535 on the way or stood there. That the counts at 65535 are kept beside the
counter is how the model comes to that (log 28). -/
def Obligations.ReadCountersShowsAndClears : Prop :=
  (∀ (flags : Byte) (s : State), PortIdle s →
     let reply :=
       bytes16 (s.matrix .a).ghosts.value ++ bytes16 (s.matrix .b).ghosts.value ++ bytes16 (s.lostKeys.get .a).value
         ++ bytes16 (s.lostKeys.get .b).value ++ bytes16 (s.lanes.dropped.get .a).value
         ++ bytes16 (s.lanes.dropped.get .b).value ++ bytes16 s.link.duplicates.value ++ bytes16 s.link.stales.value
         ++ bytes16 s.reports.losses.value
     let zero : Counter := { value := 0, beyond := 0 }
     (flags.getLsbD 0 = false →
       exec (.readCounters .frameEnd flags) s = .next { s with port := framePort s .ok reply })
     ∧ (flags.getLsbD 0 = true →
       exec (.readCounters .frameEnd flags) s = .next
         { s with
           matrices := { a := { s.matrices.a with ghosts := zero }, b := { s.matrices.b with ghosts := zero } },
           lostKeys := { a := zero, b := zero }, lanes := { s.lanes with dropped := { a := zero, b := zero } },
           link := { s.link with duplicates := zero, stales := zero }, reports := { s.reports with losses := zero },
           port := framePort s .ok reply })
     ∧ ∃ p : LessonPort, exec (.readCounters .request flags) s = .next { s with port := p }
         ∧ p.lcsLow = true ∧ p.reply = reply
         ∧ p.frame = .complete (.readCounters .request flags) none
             { reportCount := s.reports.queue.length,
               counters :=
                 { ghosts := { a := (s.matrix .a).ghosts, b := (s.matrix .b).ghosts }, lostKeys := s.lostKeys,
                   dropped := s.lanes.dropped, duplicates := s.link.duplicates, stales := s.link.stales,
                   losses := s.reports.losses } })
  ∧ (∀ (flags : Byte) (shown : Shown) (s : State), s.port.lcsLow = true →
     s.port.frame = .complete (.readCounters .request flags) none shown →
     let x := shown.counters
     let ended : LessonPort := { s.port with lcsLow := false, frame := .waiting, lastOutcome := .ok }
     (flags.getLsbD 0 = false → exec .shortFrame s = .next { s with port := ended })
     ∧ (flags.getLsbD 0 = true →
       exec .shortFrame s = .next
         { s with
           matrices :=
             { a := { s.matrices.a with ghosts := countsSince x.ghosts.a s.matrices.a.ghosts },
               b := { s.matrices.b with ghosts := countsSince x.ghosts.b s.matrices.b.ghosts } },
           lostKeys := { a := countsSince x.lostKeys.a s.lostKeys.a, b := countsSince x.lostKeys.b s.lostKeys.b },
           lanes :=
             { s.lanes with
               dropped :=
                 { a := countsSince x.dropped.a s.lanes.dropped.a, b := countsSince x.dropped.b s.lanes.dropped.b } },
           link :=
             { s.link with
               duplicates := countsSince x.duplicates s.link.duplicates, stales := countsSince x.stales s.link.stales },
           reports := { s.reports with losses := countsSince x.losses s.reports.losses },
           port := ended }))
  ∧ ∀ (shown : Counter) (n : Nat),
      countsSince shown (Nat.repeat counted n shown) = { value := BitVec.ofNat 16 (min 65535 n), beyond := 0 }

/-- AGED (R155): the head's age has reached T_age, so the cause is pending; while it has not, nothing happens (log 2). -/
def Obligations.AgedBecomesPending : Prop :=
  ∀ (r : Record) (rest : List Record) (s : State), LinesFollow s → s.reports.queue = r :: rest →
    (s.reports.tAge ≠ 0 → s.reports.tAge.toNat ≤ (s.clock - r.stamp).toNat →
      ∃ t, exec .agedExpiry s = .next t
        ∧ t = { s with reports := { s.reports with agedPending := true }, pins := t.pins }
        ∧ (s.reports.enables.aged = true → t.pins.attn = true))
    ∧ ((s.clock - r.stamp).toNat < s.reports.tAge.toNat ∨ s.reports.tAge = 0 → exec .agedExpiry s = .next s)

/-- A record offered to the queue joins while there is room (R150). Into a full queue a record that is no WORD_RESULT is
lost, counted and raised as REPORT_LOSS (R151); a seat's WORD_RESULT stays with the seat, and nothing changes (R151, R61). -/
def Obligations.OfferedRecordJoinsOrIsLost : Prop :=
  ∀ (body : Report) (s : State),
    (s.reports.queue.length < 16 → offerRecord body s = { s with reports := withRecord s body })
    ∧ (16 ≤ s.reports.queue.length → ∀ k, tryPost k s = s)
    ∧ (16 ≤ s.reports.queue.length → (∀ r, body ≠ .wordResult r) →
      offerRecord body s =
        { s with
          reports :=
            { s.reports with
              losses := counted s.reports.losses,
              fault := some (withFault s .reportLoss (reportKindCode body)) } })

/-! ## Speech link -/

/-- A FETCH with nothing in flight and no lane offering (R135): IDLE, remembered as the last reply. A duplicate FETCH (R133):
the last reply again, nothing advances, the counter moves by one. A FETCH with the fresh flag and an utterance in flight,
STREAMING or DRAINING (R134, R145): the utterance leaves as LOST, without a fault, a tagged SAY offers its SPEECH_DONE, a seat
is told; the sequence memory is cleared, and the FETCH is served as one that finds the part so and nothing in flight; with
nothing offering then, that is IDLE, with its own bit the sequence memory. -/
def Obligations.FetchIdlesRepeatsOrStartsAfresh : Prop :=
  (∀ (flags : Byte) (s : State), LinesFollow s → s.link.inFlight = none → (∀ i, ¬ Offers s i) →
     (flags.getLsbD 1 = true ∨ s.link.sequence ≠ some (flags.getLsbD 0)) →
     exec (.fetch flags) s = .next
       { s with
         link :=
           { s.link with
             fetched := true, sequence := some (flags.getLsbD 0), lastReply := .idle, reply := [0, 0, 0, 0] } })
  ∧ (∀ (flags : Byte) (s : State), LinesFollow s → flags.getLsbD 1 = false →
     s.link.sequence = some (flags.getLsbD 0) →
     exec (.fetch flags) s = .next
       { s with
         link :=
           { s.link with
             fetched := true,
             duplicates := counted s.link.duplicates,
             reply := fetchReplyBytes s.link.lastReply } })
  ∧ (∀ (flags : Byte) (u : Utterance) (e : SpeechEntry) (h : Handle) (s : State), LinesFollow s →
     flags.getLsbD 1 = true → s.link.inFlight = some u → e.state ≠ .queued → e.content = .phrase h →
     (s.handle h).state = .kept →
     let afterwards (x : State) : Prop :=
       ∀ pins, exec (.fetch flags) s
         = exec (.fetch flags) { x with link := { x.link with sequence := none }, pins := pins }
     (∀ rest, u.lane = .system → s.lane .system = e :: rest → e.seat = none →
       let lost := systemSpoken .lost e rest h s
       afterwards lost
       ∧ ((∀ i, ¬ Offers lost i) →
         ∃ t, exec (.fetch flags) s = .next t
           ∧ t = { lost with
               link :=
                 { nothingInFlight s with
                   fetched := true, sequence := some (flags.getLsbD 0), lastReply := .idle, reply := [0, 0, 0, 0] },
               pins := t.pins }))
     ∧ (∀ k, ImagesFollow s → u.lane = .prompt k → s.lane (.prompt k) = [e] → s.lane (.echo k) = [] →
       e.seat = some k → e.tag = 0 → s.keyQueue k = [] →
       SeatIsTold k e s (promptSpoken k h s) afterwards))

/-- A FETCH that starts an utterance (R135, R136, R137): the system lane's head first, with the channel its SAY gave and the
pointer left as it is; else the pointed seat's, else the other seat's, the echo lane before the prompt lane. The fresh flag
makes no difference with nothing in flight (R134). -/
def Obligations.FetchStartsThePointedSeat : Prop :=
  ∀ (flags : Byte) (i : LaneId) (e : SpeechEntry) (rest : List SpeechEntry) (s : State), LinesFollow s →
    s.link.inFlight = none → (flags.getLsbD 1 = true ∨ s.link.sequence ≠ some (flags.getLsbD 0)) →
    Offers s i → s.lane i = e :: rest →
    let started (channel : Channel) (pointer : Seat) (t : State) : Prop :=
      t = { s with
        lanes := s.lanes.set i ({ e with state := .streaming, channel := some channel } :: rest),
        link :=
          { s.link with
            inFlight := some { lane := i, serial := s.link.serial, position := 1, expansion := none },
            sequence := some (flags.getLsbD 0), lastReply := .start s.link.serial channel, fetched := true,
            serial := s.link.serial + 1, pointer := pointer, responseTimer := some s.link.tResp.toNat,
            reply := [1, s.link.serial, channelCode channel, 0] },
        pins := t.pins }
    (∀ channel, i = .system → e.seat = none → e.channel = some channel →
      ∃ t, exec (.fetch flags) s = .next t ∧ started channel s.link.pointer t)
    ∧ (∀ k : Seat, ¬ Offers s .system →
      (s.link.pointer = k ∨ (¬ Offers s (.echo (otherSeat k)) ∧ ¬ Offers s (.prompt (otherSeat k)))) →
      (i = .echo k ∨ (i = .prompt k ∧ ¬ Offers s (.echo k))) → e.seat = some k →
      ∃ t, exec (.fetch flags) s = .next t
        ∧ started
            (if (s.seat (otherSeat k)).state = .off then .both else (match k with | .a => .left | .b => .right))
            (otherSeat k) t)

/-- The replies to a FETCH that finds its utterance STREAMING (R138, R139, R140): the items of an echoed letter, of a cue and of
a phrase by position; the first letter of a spell item's expansion, then the expansion's next items, then the item after it;
a spell item that expands to nothing is passed over; END(normal) when nothing is left. A cut-pending utterance gets END(cut)
at the next accepted FETCH, whatever was left of it (R138, R113). -/
def Obligations.FetchStreamsItemsAndEnds : Prop :=
  ∀ (flags : Byte) (u : Utterance) (e : SpeechEntry) (rest : List SpeechEntry) (s : State), LinesFollow s →
    s.link.inFlight = some u → s.lane u.lane = e :: rest → e.state = .streaming →
    flags.getLsbD 1 = false → s.link.sequence ≠ some (flags.getLsbD 0) →
    let gives (item : Item) (u' : Utterance) : Prop :=
      exec (.fetch flags) s = .next { s with link := linkItem flags u' item s }
    let ends (cut : Bool) (u' : Utterance) : Prop :=
      ∃ t, exec (.fetch flags) s = .next t
        ∧ t = { s with
            lanes := s.lanes.set u.lane ({ e with state := .draining } :: rest),
            link :=
              { s.link with
                inFlight := some u', sequence := some (flags.getLsbD 0), lastReply := .ended cut u.serial,
                fetched := true, responseTimer := some s.link.tResp.toNat,
                reply := [3, flagByte cut, 0, u.serial] },
            pins := t.pins }
        ∧ t.pins.srq = false
    let finished : Prop := u.expansion = none ∨ ∃ x, u.expansion = some x ∧ 2 * x.letters.length ≤ x.place + 1
    let spells (k : Seat) (item : Item) (letters : List Byte) : Prop :=
      (item = .spellTarget ∧ letters = s.target k) ∨ (item = .spellEntry ∧ letters = (s.seat k).line.map (·.letter))
    let plain (item : Item) : Prop := item ≠ .spellTarget ∧ item ≠ .spellEntry
    (e.cutPending = true → ends true u)
    ∧ (e.cutPending = false →
      (∀ c, e.content = .letter c → finished →
        (u.position = 1 → gives (.letter c) { u with position := 2, expansion := none })
        ∧ (u.position = 2 → ends false { u with expansion := none }))
      ∧ (∀ c, e.content = .cue c → finished →
        (u.position = 1 → gives (.cue c) { u with position := 2, expansion := none })
        ∧ (u.position = 2 → ends false { u with expansion := none }))
      ∧ (∀ x item, u.expansion = some x → expansionItem x = some item →
        gives item { u with expansion := some { x with place := x.place + 1 } })
      ∧ (∀ h, e.content = .phrase h → finished →
        (∀ item, u.position ≤ (s.handle h).itemCount → phraseItem h u.position s = some item →
          (plain item → gives item { u with position := u.position + 1, expansion := none })
          ∧ (∀ k c cs, e.seat = some k → spells k item (c :: cs) →
            gives (.letter c)
              { u with position := u.position + 1, expansion := some { letters := c :: cs, place := 1 } })
          ∧ (∀ next, (item = .spellTarget ∨ item = .spellEntry) →
            (e.seat = none ∨ ∃ k, e.seat = some k ∧ spells k item []) →
            u.position + 1 ≤ (s.handle h).itemCount → phraseItem h (u.position + 1) s = some next → plain next →
            gives next { u with position := u.position + 2, expansion := none }))
        ∧ (u.position = (s.handle h).itemCount + 1 → ends false { u with expansion := none })))

/-- An accepted FETCH in DRAINING (R141): IDLE, and nothing advances. -/
def Obligations.FetchWhileDrainingIsIdle : Prop :=
  ∀ (flags : Byte) (u : Utterance) (e : SpeechEntry) (rest : List SpeechEntry) (s : State), LinesFollow s →
    s.link.inFlight = some u → s.lane u.lane = e :: rest → e.state = .draining →
    flags.getLsbD 1 = false → s.link.sequence ≠ some (flags.getLsbD 0) →
    exec (.fetch flags) s = .next
      { s with
        link :=
          { s.link with
            fetched := true, sequence := some (flags.getLsbD 0), lastReply := .idle, reply := [0, 0, 0, 0] } }

/-- A spell expansion of k letters gives 2k - 1 items: the letters in order, a PAUSE of 20 between two (R140). -/
def Obligations.ExpansionSpellsTheLetters : Prop :=
  ∀ letters : List Byte,
    (∀ n, n < letters.length →
      expansionItem { letters := letters, place := 2 * n } = (letters[n]?).map Item.letter)
    ∧ (∀ n, n + 1 < letters.length → expansionItem { letters := letters, place := 2 * n + 1 } = some (.pause 20))
    ∧ ∀ place, 2 * letters.length ≤ place + 1 → expansionItem { letters := letters, place := place } = none

/-- DONE for the utterance in flight (R142, R145, R117): it leaves its lane with the outcome, its reference is given up, nothing
is in flight. A SAY of the system lane: a tagged one offers its SPEECH_DONE, lost when the queue is full (R151); a RELEASING
handle that loses its last reference returns its pages and is EMPTY (R106). A letter echo of a seat in ENTRY with no other
speech: the idle timer starts (R72, R64). The presentation prompt (R47): PRESENT becomes ENTRY, and so does a resume point.
The review feedback (R60, R63, R70): REVIEW(RETRY) goes back to ENTRY with one more try; REVIEW(FINAL) waits while its result
is pending, and else goes to IDLE, or on to a picked word with auto-next; in PAUSED only the wait ends. -/
def Obligations.DoneCompletesTheUtterance : Prop :=
  (∀ (u : Utterance) (e : SpeechEntry) (rest : List SpeechEntry) (h : Handle) (outcome : Byte) (o : SpeechOutcome)
     (s : State), LinesFollow s → s.link.fetched = true →
     ((outcome = 1 ∧ o = .played) ∨ (outcome = 2 ∧ o = .cut) ∨ (outcome = 3 ∧ o = .failed)) →
     s.link.inFlight = some u → u.lane = .system → s.lane .system = e :: rest → e.seat = none →
     e.content = .phrase h → ((s.handle h).state = .kept ∨ (s.handle h).state = .releasing) →
     let r := s.handle h
     let body : Report := .speechDone e.tag o none e.channel
     ∃ t, exec (.engineDone u.serial outcome) s = .next t
       ∧ t = { s with
           phrases := t.phrases, lanes := { s.lanes with system := rest }, link := linkDone s,
           reports :=
             if e.tag = 0 then s.reports else if s.reports.queue.length < 16 then withRecord s body else withLoss s body,
           pins := t.pins }
       ∧ (r.state = .kept ∨ 2 ≤ r.references → t.phrases = (referenceGivenUp h s).phrases)
       ∧ (r.state = .releasing → r.references = 1 →
         t.phrases.pages = s.phrases.pages
         ∧ t.phrases.handles =
             s.phrases.handles.set h.val { state := .empty, itemCount := 0, chain := [], references := 0 }
         ∧ ∀ p, t.phrases.free.count p = s.phrases.free.count p + r.chain.count p))
  ∧ (∀ (k : Seat) (u : Utterance) (e : SpeechEntry) (c : Byte) (s : State), LinesFollow s → s.link.fetched = true →
     s.link.inFlight = some u → u.lane = .echo k → s.lane (.echo k) = [e] → s.lane (.prompt k) = [] →
     e.seat = some k → e.content = .letter c → e.tag = 0 → (s.seat k).state = .entry → s.keyQueue k = [] →
     (s.seat k).presentationPrompt = none → (s.seat k).reviewFeedback = none →
     ∃ t, exec (.engineDone u.serial 1) s = .next t
       ∧ t = { s with
           seats := s.seats.set k { s.seat k with idleTimer := startedIdle (s.seat k) },
           lanes := { s.lanes with echo := s.lanes.echo.set k [] }, link := linkDone s, pins := t.pins })
  ∧ (∀ (k : Seat) (u : Utterance) (e : SpeechEntry) (h : Handle) (outcome : Byte) (s : State), LinesFollow s →
     ImagesFollow s → s.link.fetched = true → 1 ≤ outcome.toNat → outcome.toNat ≤ 3 → s.link.inFlight = some u →
     u.lane = .prompt k → s.lane (.prompt k) = [e] → s.lane (.echo k) = [] → e.seat = some k →
     e.content = .phrase h → (s.handle h).state = .kept → e.tag = 0 → s.keyQueue k = [] →
     SeatIsTold k e s { promptSpoken k h s with link := linkDone s } fun x =>
       ∃ t, exec (.engineDone u.serial outcome) s = .next t ∧ t = { x with pins := t.pins })

/-- A DONE that names no utterance in flight is STALE and counted; one before any FETCH or with a bad outcome also raises
ENGINE_PROTOCOL with the serial of the most recent START (R142, R143, R147). UNKNOWN_SPEECH_REQUEST (R143): STALE,
ENGINE_PROTOCOL, no counter. Its further bytes, as those after any reply of the Speech Port, are filler (R186, R130). -/
def Obligations.StaleAndUnknownRequests : Prop :=
  (∀ (serial outcome : Byte) (s : State), LinesFollow s →
     let stale : Link :=
       { s.link with stales := counted s.link.stales, reply := [2] }
     (s.link.fetched = true → 1 ≤ outcome.toNat → outcome.toNat ≤ 3 →
       (∀ u, s.link.inFlight = some u → u.serial ≠ serial) →
       exec (.engineDone serial outcome) s = .next { s with link := stale })
     ∧ (s.link.fetched = false ∨ outcome = 0 ∨ 4 ≤ outcome.toNat →
       ∃ t, exec (.engineDone serial outcome) s = .next t
         ∧ t = { s with
             link := stale,
             reports := { s.reports with fault := some (withFault s .engineProtocol (s.link.serial - 1)) },
             pins := t.pins }))
  ∧ (∀ (code : Byte) (s : State), LinesFollow s → code ∉ Config.speechCodes →
     ∃ t, exec (.unknownSpeechRequest code) s = .next t
       ∧ t = { s with
           link := { s.link with reply := [2] },
           reports := { s.reports with fault := some (withFault s .engineProtocol (s.link.serial - 1)) },
           pins := t.pins }
       ∧ t.speechByte 0 = 2 ∧ ∀ n, 1 ≤ n → t.speechByte n = 255)
  ∧ (∀ (s : State) (n : Nat), s.link.reply.length ≤ n → s.speechByte n = 255)
  ∧ (∀ (flags : Byte) (s t : State), exec (.fetch flags) s = .next t → t.link.reply.length = 4)

/-- RESPONSE_TIMER_EXPIRY (R144, R145): the utterance leaves as LOST, and ENGINE_TIMEOUT is raised with its serial. A SAY of the
system lane gives up its reference, and a tagged one offers its SPEECH_DONE; into a full queue that is lost, and the operand
says which of the two faults comes first (R159, log 5). A seat's presentation prompt or review feedback ends the seat's wait.
A timer that is not due does nothing (log 2). -/
def Obligations.ResponseTimerLosesTheUtterance : Prop :=
  ∀ (timeoutFirst : Bool) (u : Utterance) (e : SpeechEntry) (h : Handle) (s : State), LinesFollow s →
    s.link.inFlight = some u →
    let timedOut := faulted .engineTimeout u.serial
    (s.link.responseTimer = some 0 → e.content = .phrase h → (s.handle h).state = .kept →
      (∀ rest, u.lane = .system → s.lane .system = e :: rest → e.seat = none →
        let lost := systemSpoken .lost e rest h
        ∃ t, exec (.responseTimerExpiry timeoutFirst) s = .next t
          ∧ t = { (if timeoutFirst then lost (timedOut s) else timedOut (lost s)) with pins := t.pins })
      ∧ (∀ k, ImagesFollow s → u.lane = .prompt k → s.lane (.prompt k) = [e] → s.lane (.echo k) = [] →
        e.seat = some k → e.tag = 0 → s.keyQueue k = [] →
        SeatIsTold k e s (timedOut (promptSpoken k h s)) fun x =>
          ∃ t, exec (.responseTimerExpiry timeoutFirst) s = .next t ∧ t = { x with pins := t.pins }))
    ∧ (s.link.responseTimer ≠ some 0 → exec (.responseTimerExpiry timeoutFirst) s = .next s)

/-! ## Display -/

/-- DISPLAY_POINTER_WRITE (R166, R186): a first byte of 0 to 51 sets the pointer and is acknowledged, later bytes are not; a
first byte of 52 to 255 is not, and keeps it; at another address nothing is acknowledged. DISPLAY_READ_BEGIN (R167): both
live images are copied, the pointer stays; another address takes no part. -/
def Obligations.PointerAndReadBegin : Prop :=
  (∀ (x : Byte) (rest : List Byte) (address : BitVec 7) (s : State),
     (∀ h : x.toNat < 52,
       exec (.displayPointerWrite 0x3A (x :: rest)) s = .next
         { s with
           mirror :=
             { s.mirror with
               pointer := ⟨x.toNat, h⟩, acks := [true, true] ++ List.replicate rest.length false } })
     ∧ (52 ≤ x.toNat →
       exec (.displayPointerWrite 0x3A (x :: rest)) s = .next
         { s with mirror := { s.mirror with acks := [true, false] ++ List.replicate rest.length false } })
     ∧ exec (.displayPointerWrite 0x3A []) s = .next { s with mirror := { s.mirror with acks := [true] } }
     ∧ (address ≠ 0x3A →
       exec (.displayPointerWrite address (x :: rest)) s = .next { s with mirror := { s.mirror with acks := [false] } }))
  ∧ (∀ (address : BitVec 7) (s : State),
     exec (.displayReadBegin 0x3A) s = .next
       { s with
         mirror :=
           { s.mirror with
             snapshot := s.mirror.live, read := .reading s.mirror.pointer, acks := [true], sent := [] } }
     ∧ (address ≠ 0x3A →
       exec (.displayReadBegin address) s = .next { s with mirror := { s.mirror with acks := [false] } }))

/-- DISPLAY_READ_END (R168, R169): a seat whose generation byte was sent has the snapshot's generation delivered, the
other keeps its own. A read abandoned by a reset has sent the snapshot's bytes before the reset and all ones after it, and
delivers nothing (R170); how many came before is an operand (log 9). -/
def Obligations.ReadEndDeliversTheGenerations : Prop :=
  let snapshotByte (p : Pair Image) (start : Fin 52) (i : Nat) : Option Byte :=
    (imageBytes p.a ++ imageBytes p.b)[(start.val + i) % 52]?
  ∀ (sent : ReadSent) (start : Fin 52) (s : State), LinesFollow s →
    (s.mirror.read = .reading start →
      ∃ t, exec (.displayReadEnd sent) s = .next t
        ∧ t = { s with
            mirror := { s.mirror with read := .none, sent := t.mirror.sent, delivered := t.mirror.delivered },
            pins := t.pins }
        ∧ t.mirror.sent.length = sent.bytes
        ∧ (∀ i, i < sent.bytes → t.mirror.sent[i]? = snapshotByte s.mirror.snapshot start i)
        ∧ (∀ k b, b = (match k with | Seat.a => 0 | Seat.b => 26) →
            ((∃ i, i < sent.bytes ∧ (start.val + i) % 52 = b) →
              t.mirror.delivered.get k = (s.mirror.snapshot.get k).generation)
            ∧ ((∀ i, i < sent.bytes → (start.val + i) % 52 ≠ b) →
              t.mirror.delivered.get k = s.mirror.delivered.get k)))
    ∧ (∀ before, s.mirror.read = .abandoned start before →
      ∃ bytes : List Byte, bytes.length = sent.bytes
        ∧ (∀ i, i < sent.bytes →
            bytes[i]? = if i < sent.beforeReset then snapshotByte before start i else some 255)
        ∧ exec (.displayReadEnd sent) s = .next
            { s with mirror := { s.mirror with read := .none, sent := bytes } })
    ∧ (s.mirror.read = .none → exec (.displayReadEnd sent) s = .next s)

/-! ## Clock, timers, keys -/

/-- LESSON_CLOCK_TICK in a quiet part (R1): the clock and every running timer move by one millisecond, and nothing else
changes, whatever the order of the two scan passes. -/
def Obligations.QuietTickMovesTheClock : Prop :=
  ∀ (order : List Seat) (s : State), LinesFollow s → Quiet s →
    exec (.lessonClockTick 0 0 [] order) s = .next (millisecondLater s)

/-- The changes of a key under one reading (R6, R7, R8). A key that is read pressed for the T_db-th time in a row is DOWN at
that pass (R6, R12): unmapped, it counts as held and produces nothing. A ghost suspect is BLOCKED, held, and
counted (R9). A key, BLOCKED or DOWN, that takes the held keys past the mash limit makes the matrix MASHED (R10): the repeat
ends, one MASH entry is routed, here to a seat in REVIEW, which keeps it, or in OFF, which discards it, and the key itself
produces nothing; nor does any key of a MASHED matrix (R11), which is NORMAL again at the end of the first pass that
finds all its keys UP. A mapped key that is DOWN is routed by its code, and ERASE starts the repeat (R12, R13). PAUSE acts at
once by the seat's state (R16, R67); a lesson key becomes a LESSON_KEY record in every state (R17). Any other code is an entry
for the seat: discarded in OFF and in a pause by the child or the lesson (R15, R50), lost when its queue is full, with the
newest entry flagged, the count and KEY_OVERRUN (R19), consumed to wake a seat paused as GONE (R71), taken at once in PRESENT
and ENTRY, kept in REVIEW, discarded in IDLE (R18, R50). That CHILD_RESUME is posted after all the resume does, its records
and the waiting keys included, is the model's choice (log 15). -/
def Obligations.KeysSettleAndAreRouted : Prop :=
  (∀ (d n : Nat),
     readKey d true .up = .becomes (.settlingDown 1) ∧ readKey d false .up = .becomes .up
     ∧ (n + 1 < d → readKey d true (.settlingDown n) = .becomes (.settlingDown (n + 1)))
     ∧ (d ≤ n + 1 → readKey d true (.settlingDown n) = .completes)
     ∧ readKey d false (.settlingDown n) = .becomes .up
     ∧ readKey d true .down = .becomes .down ∧ readKey d false .down = .becomes (.settlingUp 1)
     ∧ readKey d true (.settlingUp n) = .bounces
     ∧ (n + 1 < d → readKey d false (.settlingUp n) = .becomes (.settlingUp (n + 1)))
     ∧ (d ≤ n + 1 → readKey d false (.settlingUp n) = .becomes .up)
     ∧ readKey d true (.blocked n) = .becomes (.blocked 0)
     ∧ (n + 1 < d → readKey d false (.blocked n) = .becomes (.blocked (n + 1)))
     ∧ (d ≤ n + 1 → readKey d false (.blocked n) = .becomes .up))
  ∧ (∀ (m : Seat) (p : Position) (n : Nat) (s : State),
     (s.matrix m).keys[p.val] = .settlingDown n → s.timing.debounce.toNat ≤ n + 1 →
     let x := s.matrix m
     let down : Vector KeyState 64 := x.keys.set p.val .down
     let after (y : MatrixState) : State := { s with matrices := s.matrices.set m y }
     let mashed (y : MatrixState) : Prop :=
       let z := after { y with condition := .mashed }
       (∀ phase, (s.seat m).state = .review phase → (s.keyQueue m).length < 16 →
         scanKey m p true s =
           { z with
             keyQueues :=
               s.keyQueues.set m
                 (s.keyQueue m ++ [{ code := 0, kind := .mash, stamp := s.clock.setWidth 16, overrun := false }]) })
       ∧ ((s.seat m).state = .off → scanKey m p true s = z)
     (x.keymap[p.val] = 0 → ghostSuspect x p = false → x.condition = .normal →
       x.keys.toList.countP isHeld < s.timing.mashLimit.toNat →
       scanKey m p true s = after { x with keys := down, repeating := none })
     ∧ (x.diodes = false →
       (∃ r c : Nat, r < 8 ∧ c < 8 ∧ r ≠ p.val / 8 ∧ c ≠ p.val % 8
         ∧ isHeld (x.keys.toList.getD (p.val / 8 * 8 + c) .up) = true
         ∧ isHeld (x.keys.toList.getD (r * 8 + p.val % 8) .up) = true
         ∧ isHeld (x.keys.toList.getD (r * 8 + c) .up) = true) →
       let ghost : MatrixState :=
         { x with keys := x.keys.set p.val (.blocked 0), repeating := none, ghosts := counted x.ghosts }
       (x.condition = .mashed ∨ x.keys.toList.countP isHeld < s.timing.mashLimit.toNat →
         scanKey m p true s = after ghost)
       ∧ (x.condition = .normal → s.timing.mashLimit.toNat ≤ x.keys.toList.countP isHeld → mashed ghost))
     ∧ (ghostSuspect x p = false ∨ x.diodes = true → x.condition = .normal →
       s.timing.mashLimit.toNat ≤ x.keys.toList.countP isHeld → mashed { x with keys := down, repeating := none })
     ∧ (ghostSuspect x p = false ∨ x.diodes = true → x.condition = .normal →
       x.keys.toList.countP isHeld < s.timing.mashLimit.toNat → x.keymap[p.val] ≠ 0 →
       let code := x.keymap[p.val]
       scanKey m p true s =
         routePress m code
           (after
             { x with
               keys := down,
               repeating := if code = 32 then some { position := p, left := s.timing.repeatDelay.toNat } else none }))
     ∧ (ghostSuspect x p = false ∨ x.diodes = true → x.condition = .mashed →
       scanKey m p true s = after { x with keys := down, repeating := none }))
  ∧ (∀ (m : Seat) (s : State), (s.matrix m).condition = .mashed →
     ((∀ key ∈ (s.matrix m).keys.toList, key = .up) →
       endPass m s = { s with matrices := s.matrices.set m { s.matrix m with condition := .normal } })
     ∧ ((∃ key ∈ (s.matrix m).keys.toList, key ≠ .up) → endPass m s = s))
  ∧ (∀ (m : Seat) (s : State),
     let c := s.seat m
     let lessonCode (code : Byte) : Prop := 40 ≤ code.toNat ∧ code.toNat ≤ 47
     let resumed : State := resume m s
     (∀ point, c.state = resumedState point →
       routePress m 36 s =
         { s with
           seats := s.seats.set m { c with state := .paused .child point, idleTimer := none },
           mirror :=
             { s.mirror with
               live := liveWith m .paused (s.target m).length (s.mirror.live.get m).verdict c.tries c.line s },
           reports := offered s (.seatEvent m .childPause) })
     ∧ (∀ point, c.state = .paused .child point ∨ c.state = .paused .gone point →
       routePress m 36 s = { resumed with reports := offered resumed (.seatEvent m .childResume) }
       ∧ (point = .entry → s.keyQueue m = [] →
         resumed = lineShown m { c with nudges := 0 } c.line s))
     ∧ (c.state = .off ∨ c.state = .idle ∨ (∃ point, c.state = .paused .lesson point) → routePress m 36 s = s)
     ∧ (∀ code, lessonCode code →
       routePress m code s = { s with reports := offered s (.lessonKey m code) })
     ∧ (∀ code, code ≠ 36 → ¬ lessonCode code → routePress m code s = routeEntry m code .press s)
     ∧ (∀ (code : Byte) (kind : KeyKind),
       let joins : KeyEntry := { code := code, kind := kind, stamp := s.clock.setWidth 16, overrun := false }
       ((c.state = .off ∨ ∃ point, c.state = .paused .child point ∨ c.state = .paused .lesson point) →
         routeEntry m code kind s = s)
       ∧ (∀ (older : List KeyEntry) (newest : KeyEntry), s.keyQueue m = older ++ [newest] → 16 ≤ (s.keyQueue m).length →
         c.state ≠ .off → (∀ point, c.state ≠ .paused .child point ∧ c.state ≠ .paused .lesson point) →
         routeEntry m code kind s =
           { faulted .keyOverrun (seatCode m) s with
             keyQueues := s.keyQueues.set m (older ++ [{ newest with overrun := true }]),
             lostKeys := s.lostKeys.set m (counted (s.lostKeys.get m)) })
       ∧ ((s.keyQueue m).length < 16 →
         (∀ point, c.state = .paused .gone point →
           routeEntry m code kind s = { resumed with reports := offered resumed (.seatEvent m .childResume) })
         ∧ (c.state = .present ∨ c.state = .entry → s.keyQueue m = [] → routeEntry m code kind s = takeKey m joins s)
         ∧ (∀ phase, c.state = .review phase →
           routeEntry m code kind s = { s with keyQueues := s.keyQueues.set m (s.keyQueue m ++ [joins]) })
         ∧ (c.state = .idle → routeEntry m code kind s = { s with keyQueues := s.keyQueues.set m [] }))))

/-- A tick in which one letter key reaches DOWN (R6, R12, R15, R50, R53): a seat in ENTRY that nothing is speaking to gets
the letter on its line and its echo queued, and the idle timer stops. -/
def Obligations.TickTypesALetter : Prop :=
  ∀ (k : Seat) (p : Position) (n : Nat) (letter : Byte) (s : State), LinesFollow s → ImagesFollow s →
    (s.matrix k).keys = (Vector.replicate 64 KeyState.up).set p.val (.settlingDown n) →
    s.timing.debounce.toNat ≤ n + 1 → 1 ≤ s.timing.mashLimit.toNat →
    (s.matrix k).keymap[p.val] = letter → 1 ≤ letter.toNat → letter.toNat ≤ 27 →
    (s.matrix k).condition = .normal → (s.matrix k).repeating = none →
    (s.matrix (otherSeat k)).keys = Vector.replicate 64 KeyState.up → (s.matrix (otherSeat k)).condition = .normal →
    (s.matrix (otherSeat k)).repeating = none →
    (∀ j, (s.seat j).idleTimer ≠ some 0) → s.link.responseTimer ≠ some 0 → s.link.inFlight = none →
    s.reports.queue = [] → s.keyQueue k = [] → s.lane (.prompt k) = [] → s.lane (.echo k) = [] →
    (s.seat k).state = .entry → (s.seat k).line.length < 20 → (s.seat k).settings.check = .whole →
    (s.seat k).settings.echo = true →
    let q := millisecondLater s
    let reading : BitVec 64 := 1#64 <<< p.val
    ∃ t, exec (.lessonClockTick (if k = .a then reading else 0) (if k = .a then 0 else reading) [] []) s = .next t
      ∧ t = { q with
          matrices := s.matrices.set k { s.matrix k with keys := (s.matrix k).keys.set p.val .down },
          seats :=
            q.seats.set k
              { q.seat k with
                line := (s.seat k).line ++ [{ letter := letter, origin := .typed, mark := .unchecked }], nudges := 0,
                idleTimer := none },
          lanes :=
            { s.lanes with
              echo := s.lanes.echo.set k [freshEntry s (.letter letter) .drillEcho (some k) none 0] },
          nextEntryId := s.nextEntryId + 1,
          mirror :=
            { s.mirror with
              live :=
                s.mirror.live.set k
                  { s.mirror.live.get k with
                    generation := (s.mirror.live.get k).generation + 1,
                    symbols := (s.seat k).line ++ [{ letter := letter, origin := .typed, mark := .unchecked }] } },
          pins := t.pins }

/-- An ENTER that a seat in ENTRY takes from its queue (R57, R59, R61, R92), with the phrase of its feedback slot KEPT and
room for it: the marks are written, the verdict is shown, the feedback is queued. A NEAR or MISSED with tries left leads to
REVIEW(RETRY), with slot 4. Every other judgement leads to REVIEW(FINAL), with the slot of its verdict; with report room
its WORD_RESULT joins the queue, the deck takes the figures, and the round moves (R33, R61). -/
def Obligations.EnterLeadsToReview : Prop :=
  ∀ (k : Seat) (w : WordIndex) (h : Handle) (slot : Fin 8) (stamp : Word16) (s : State), ImagesFollow s →
    let c := s.seat k
    let entry := c.line.map (·.letter)
    let target := (s.word w).letters
    let d := distance entry target
    let verdict := verdictOf d c.hints
    let marked := List.zipWith (fun x m => { x with mark := m }) c.line (marksOf entry target)
    let enter : KeyEntry := { code := 33, kind := .press, stamp := stamp, overrun := false }
    let t := takeKey k enter s
    let reviewing (c' : SeatContext) : State :=
      { phraseQueued k h .drillFeedback s with
        seats := s.seats.set k c',
        mirror :=
          { s.mirror with
            live :=
              s.mirror.live.set k
                { s.mirror.live.get k with
                  generation := (s.mirror.live.get k).generation + 1, state := .review, verdict := verdict,
                  symbols := marked } } }
    c.state = .entry → c.currentWord = some w → c.line ≠ [] → s.lanes.feedback[slot] = some h →
    (s.handle h).state = .kept → (s.lane (.prompt k)).length < 4 →
    (((verdict = .near ∨ verdict = .missed) ∧ c.tries.toNat < c.settings.triesAllowed.toNat → slot = 4 →
        t = reviewing
          { c with state := .review .retry, line := marked, nudges := 0, idleTimer := none,
                   reviewFeedback := some s.nextEntryId })
     ∧ (((verdict ≠ .near ∧ verdict ≠ .missed) ∨ c.settings.triesAllowed.toNat ≤ c.tries.toNat) →
        slot = (match verdict with | .exact => 0 | .helped => 1 | .near => 2 | _ => 3) →
        s.reports.queue.length < 16 →
        let old := s.progress w k
        ∃ (m : Byte) (due : Word16),
          m.toNat = newMasteryOf old.mastery.toNat (scoreOf d c.hints.toNat c.tries.toNat) c.settings.gain.toNat
          ∧ due.toNat =
              min 65535
                (c.round.toNat + intervalOf s.deck.intervals verdict m.toNat (newStreakOf old.streak verdict))
          ∧ t = { reviewing
                { c with state := .review .final, line := marked, nudges := 0, idleTimer := none,
                         reviewFeedback := some s.nextEntryId, pendingResult := none, previousWord := some w,
                         round := if c.round = 65535 then 65535 else c.round + 1 } with
              deck :=
                (s.setProgress w k
                  { mastery := m, due := due, streak := newStreakOf old.streak verdict,
                    seen := if old.seen = 65535 then 65535 else old.seen + 1, last := verdict }).deck,
              reports :=
                withRecord s
                  (.wordResult
                    { seat := k, word := w, verdict := verdict, distance := d,
                      firstError := firstErrorOf (alignment entry target), hints := c.hints, tries := c.tries,
                      replays := c.replays, overtyped := c.overtyped,
                      score := byteOf (scoreOf d c.hints.toNat c.tries.toNat),
                      oldMastery := old.mastery, newMastery := m, entryTime := c.entryTime }) }))

/-- A key that a seat takes in PRESENT or ENTRY (R51): the nudge count is 0, a running idle timer starts again from T_idle, and
the key acts. With barge-in off, a LETTER is appended, UNCHECKED in WHOLE mode and in STRICT mode RIGHT or WRONG by the target
letter at its place (R53, R76), and a WRONG one queues BUZZ, any other its echo when echo is on; on a full line it queues BUMP
and is counted. HINT (R55, R77, R78) cuts the line back to its correct letters and gives the next one of the word, HINTED and
RIGHT, with its echo, or queues BUMP when the word is all there. ERASE (R54) and ENTER (R57) on an empty line queue BUMP.
SAYAGAIN (R56) does nothing while a DRILL_PROMPT of the seat waits or plays, else it queues prompt and sentence, as far as
they are not missing, and counts a replay, or queues BUMP. A MASH entry (R58) queues the phrase of slot 6, if it is not
missing, and posts MASH. A full echo lane drops its oldest queued entry (R119). With barge-in on, a LETTER and a HINT do the
same once barge-in is done (R52, R125): the seat's queued DRILL_PROMPTs have left as CUT, the one in flight is marked when it
is STREAMING, and every other entry stays. -/
def Obligations.TakenKeysAct : Prop :=
  ∀ (k : Seat) (stamp : Word16) (overrun : Bool) (s : State),
    let c := s.seat k
    (c.state = .present ∨ c.state = .entry) →
    let key (code : Byte) : KeyEntry := { code := code, kind := .press, stamp := stamp, overrun := overrun }
    let target := s.target k
    let letters := c.line.map (·.letter)
    let woken : SeatContext :=
      { c with nudges := 0, idleTimer := c.idleTimer.map fun _ => c.settings.idleTimeout.toNat * 1000 }
    let echoes (content : Content) : State := if c.settings.echo then echoJoined k content s else s
    let bumps : State := { echoJoined k (.cue 2) s with seats := s.seats.set k woken }
    let plays (h : Option Handle) (g : Handle) : Prop := h = some g ∧ (s.handle g).state = .kept
    let missing (h : Option Handle) : Prop := ∀ g, ¬ plays h g
    let room (n : Nat) : Prop := (s.lane (.prompt k)).length + n ≤ 4
    -- LETTER
    (∀ letter : Byte, 1 ≤ letter.toNat → letter.toNat ≤ 27 → c.settings.bargeIn = false →
      let line (mark : Mark) := c.line ++ [{ letter := letter, origin := .typed, mark := mark }]
      (c.line.length < 20 →
        (c.settings.check = .whole →
          takeKey k (key letter) s = lineShown k woken (line .unchecked) (echoes (.letter letter)))
        ∧ (c.settings.check = .strict →
          (target[c.line.length]? = some letter →
            takeKey k (key letter) s = lineShown k woken (line .right) (echoes (.letter letter)))
          ∧ (target[c.line.length]? ≠ some letter →
            takeKey k (key letter) s = lineShown k woken (line .wrong) (echoJoined k (.cue 1) s))))
      ∧ (20 ≤ c.line.length →
        takeKey k (key letter) s =
          lineShown k { woken with overtyped := if c.overtyped = 255 then 255 else c.overtyped + 1 } c.line
            (echoJoined k (.cue 2) s)))
    -- HINT
    ∧ (∀ p, c.settings.bargeIn = false → p ≤ c.line.length → letters.take p = target.take p →
      (∀ letter, target[p]? = some letter → letters[p]? ≠ some letter →
        takeKey k (key 34) s =
          lineShown k { woken with hints := if c.hints = 255 then 255 else c.hints + 1 }
            (c.line.take p ++ [{ letter := letter, origin := .hinted, mark := .right }]) (echoes (.letter letter)))
      ∧ (p = target.length → takeKey k (key 34) s = lineShown k woken (c.line.take p) (echoJoined k (.cue 2) s)))
    -- ERASE, ENTER
    ∧ (c.line = [] → takeKey k (key 32) s = bumps ∧ takeKey k (key 33) s = bumps)
    ∧ (c.line ≠ [] → c.state = .entry → takeKey k (key 32) s = lineShown k woken c.line.dropLast s)
    -- SAYAGAIN
    ∧ ((∃ e ∈ s.lane (.prompt k) ++ s.lane (.echo k), e.seat = some k ∧ e.origin = .drillPrompt) →
      takeKey k (key 35) s = { s with seats := s.seats.set k woken })
    ∧ (∀ w, c.currentWord = some w →
      (∀ e ∈ s.lane (.prompt k) ++ s.lane (.echo k), e.seat = some k → e.origin ≠ .drillPrompt) →
      let prompt := (s.word w).prompt
      let sentence := (s.word w).sentence
      let replayed (x : State) : State :=
        { x with seats := s.seats.set k { woken with replays := if c.replays = 255 then 255 else c.replays + 1 } }
      (∀ g h, plays prompt g → plays sentence h → room 2 →
        takeKey k (key 35) s = replayed (phraseQueued k h .drillPrompt (phraseQueued k g .drillPrompt s)))
      ∧ (∀ g, plays prompt g → room 1 → missing sentence ∨ ¬ room 2 →
        takeKey k (key 35) s = replayed (phraseQueued k g .drillPrompt s))
      ∧ (∀ h, missing prompt → plays sentence h → room 1 →
        takeKey k (key 35) s = replayed (phraseQueued k h .drillPrompt s))
      ∧ ((missing prompt ∧ missing sentence) ∨ ¬ room 1 → takeKey k (key 35) s = bumps))
    -- MASH
    ∧ (let mash : KeyEntry := { key 0 with kind := .mash }
       let posted (x : State) : State :=
         { x with seats := s.seats.set k woken, reports := offered s (.seatEvent k .mash) }
       (∀ h, plays s.lanes.feedback[6] h → room 1 → takeKey k mash s = posted (phraseQueued k h .drillFeedback s))
       ∧ (missing s.lanes.feedback[6] ∨ ¬ room 1 → takeKey k mash s = posted s))
    -- Barge-in
    ∧ (∀ code : Byte, (1 ≤ code.toNat ∧ code.toNat ≤ 27) ∨ code = 34 → c.settings.bargeIn = true → SpeechAccounted s →
      (∀ e ∈ s.lane (.prompt k), bargedOver k e = true → e.tag = 0 ∧ c.reviewFeedback ≠ some e.id) →
      let withBargeIn (on : Bool) (x : State) : State :=
        { x with seats := x.seats.set k { x.seat k with settings := { (x.seat k).settings with bargeIn := on } } }
      let acts (x : State) : Prop :=
        takeKey k (key code) s = withBargeIn true (takeKey k (key code) (withBargeIn false x))
      ((∀ u e rest, s.link.inFlight = some u → s.lane u.lane = e :: rest →
          ¬ (e.state = .streaming ∧ e.seat = some k ∧ e.origin = .drillPrompt) ∧ e.state ≠ .queued) →
        acts (promptsCut k s))
      ∧ (∀ u e rest, s.link.inFlight = some u → u.lane = .prompt k → s.lane (.prompt k) = e :: rest →
        e.state = .streaming → e.seat = some k → e.origin = .drillPrompt →
        let cut := promptsCut k s
        acts
          { cut with
            lanes :=
              { cut.lanes with
                prompt := s.lanes.prompt.set k ({ e with cutPending := true } :: (cut.lane (.prompt k)).tail) } }))

/-- REPEAT when the ERASE repeat is due (R13, R54, R15): in ENTRY the last symbol goes; in REVIEW the entry waits in the
key queue with the stamp of the expiry; for a seat in OFF it is discarded. The timer starts again at RepeatRate. A timer
that is not due does nothing (log 2). -/
def Obligations.RepeatErasesAgain : Prop :=
  ∀ (k : Seat) (p : Position) (left : Nat) (s : State), LinesFollow s → ImagesFollow s →
    (s.matrix k).repeating = some { position := p, left := left } →
    let again : Pair MatrixState :=
      s.matrices.set k
        { s.matrix k with repeating := some { position := p, left := s.timing.repeatRate.toNat } }
    (left = 0 → (s.seat k).state = .entry → (s.seat k).line ≠ [] → s.keyQueue k = [] →
      ∃ t, exec (.repeatExpiry k) s = .next t
        ∧ t = { s with
            matrices := again,
            seats :=
              s.seats.set k
                { s.seat k with
                  line := (s.seat k).line.dropLast, nudges := 0,
                  idleTimer :=
                    (s.seat k).idleTimer.map fun _ => (s.seat k).settings.idleTimeout.toNat * 1000 },
            mirror :=
              { s.mirror with
                live :=
                  s.mirror.live.set k
                    { s.mirror.live.get k with
                      generation := (s.mirror.live.get k).generation + 1, symbols := (s.seat k).line.dropLast } },
            pins := t.pins })
    ∧ (∀ phase, left = 0 → (s.seat k).state = .review phase → (s.keyQueue k).length < 16 →
      exec (.repeatExpiry k) s = .next
        { s with
          matrices := again,
          keyQueues :=
            s.keyQueues.set k
              (s.keyQueue k ++ [{ code := 32, kind := .repeated, stamp := s.clock.setWidth 16, overrun := false }]) })
    ∧ (left = 0 → (s.seat k).state = .off → exec (.repeatExpiry k) s = .next { s with matrices := again })
    ∧ (left ≠ 0 → exec (.repeatExpiry k) s = .next s)

/-- IDLE_TIMER_EXPIRY in PRESENT or ENTRY (R65): at the nudge limit the seat pauses as GONE with that state as the resume
point, and posts GONE. Below it the NUDGE phrase of slot 5 is queued, which stops the timer, or, when it is missing, the
timer starts again; NUDGE is posted and counted. A timer that is not due does nothing (log 2). -/
def Obligations.IdleTimerNudgesOrPauses : Prop :=
  ∀ (k : Seat) (point : ResumePoint) (s : State), LinesFollow s → ImagesFollow s →
    (point = .present ∨ point = .entry) → (s.seat k).state = resumedState point →
    let c := s.seat k
    (c.idleTimer = some 0 → c.settings.nudgeLimit.toNat ≤ c.nudges.toNat →
      ∃ t, exec (.idleTimerExpiry k) s = .next t
        ∧ t = { s with
            seats := s.seats.set k { c with state := .paused .gone point, idleTimer := none },
            mirror :=
              { s.mirror with
                live :=
                  s.mirror.live.set k
                    { s.mirror.live.get k with
                      state := .paused, generation := (s.mirror.live.get k).generation + 1 } },
            reports := offered s (.seatEvent k .gone), pins := t.pins })
    ∧ (c.idleTimer = some 0 → c.nudges.toNat < c.settings.nudgeLimit.toNat →
      (∀ h, s.lanes.feedback[5] = some h → (s.handle h).state = .kept → (s.lane (.prompt k)).length < 4 →
        ∃ t, exec (.idleTimerExpiry k) s = .next t
          ∧ t = { phraseQueued k h .drillFeedback s with
              seats := s.seats.set k { c with nudges := c.nudges + 1, idleTimer := none },
              reports := offered s (.seatEvent k .nudge), pins := t.pins })
      ∧ ((∀ h, s.lanes.feedback[5] = some h → (s.handle h).state ≠ .kept ∨ 4 ≤ (s.lane (.prompt k)).length) →
        ∃ t, exec (.idleTimerExpiry k) s = .next t
          ∧ t = { s with
              seats :=
                s.seats.set k
                  { c with nudges := c.nudges + 1, idleTimer := some (c.settings.idleTimeout.toNat * 1000) },
              reports := offered s (.seatEvent k .nudge), pins := t.pins }))
    ∧ (c.idleTimer ≠ some 0 → exec (.idleTimerExpiry k) s = .next s)

/-! ## Judge -/

/-- The distance table (R80): its first row and column, the least of the candidates at every other cell, and the distance in
its last cell. The distance is 0 only for the target itself, at most the longer length and at least the difference of the
two. -/
def Obligations.DistanceIsTheLeastCount : Prop :=
  (∀ entry target : List Byte,
     let d := cell (distanceTable entry target)
     (∀ j, j ≤ target.length → d 0 j = j) ∧ (∀ i, i ≤ entry.length → d i 0 = i)
     ∧ (∀ i j, i < entry.length → j < target.length →
         let straight :=
           min (min (d i (j + 1) + 1) (d (i + 1) j + 1)) (d i j + if entry[i]? = target[j]? then 0 else 1)
         d (i + 1) (j + 1) =
           if 1 ≤ i ∧ 1 ≤ j ∧ entry[i]? = target[j - 1]? ∧ entry[i - 1]? = target[j]? then
             min straight (d (i - 1) (j - 1) + 1)
           else straight)
     ∧ distance entry target = d entry.length target.length)
  ∧ (∀ entry target : List Byte,
     (distance entry target = 0 ↔ entry = target)
     ∧ distance entry target ≤ max entry.length target.length
     ∧ entry.length ≤ target.length + distance entry target
     ∧ target.length ≤ entry.length + distance entry target)

/-- The streak grows by one, up to 255, on EXACT and is 0 on every other verdict (R89). -/
def Obligations.StreakCountsExactWords : Prop :=
  ∀ (old : Byte),
    (newStreakOf old .exact).toNat = min 255 (old.toNat + 1)
    ∧ newStreakOf old .helped = 0 ∧ newStreakOf old .near = 0 ∧ newStreakOf old .missed = 0

/-- Aim, verdict, score, new mastery and interval (R87, R85, R86, R88, R90): the aim is the score scaled to the mastery
range, the verdict goes by D and H, the score stays within 0 to 100, the new mastery between the old one and the aim, the
interval goes by the verdict, the band of the mastery and the streak. -/
def Obligations.JudgementFiguresStayInRange : Prop :=
  (aimOf 0 = 0 ∧ aimOf 100 = 255
   ∧ ∀ s, s ≤ 100 → aimOf s = (s * 255 + 50) / 100 ∧ aimOf s ≤ 255
       ∧ (s < 100 → aimOf (s + 1) = aimOf s + 2 ∨ aimOf (s + 1) = aimOf s + 3))
  ∧ (∀ (d tries old gain : Nat) (hints : Byte),
     (verdictOf d hints = .exact ↔ d = 0 ∧ hints = 0) ∧ (verdictOf d hints = .helped ↔ d = 0 ∧ hints ≠ 0)
     ∧ (verdictOf d hints = .near ↔ d = 1) ∧ (verdictOf d hints = .missed ↔ 2 ≤ d)
     ∧ (1 ≤ tries →
         (scoreOf d hints.toNat tries : Int) = max 0 (100 - 30 * d - 15 * hints.toNat - 10 * ((tries : Int) - 1)))
     ∧ (1 ≤ gain → gain ≤ 8 → old ≤ 255 →
         let score := scoreOf d hints.toNat tries
         let m := newMasteryOf old score gain
         min old (aimOf score) ≤ m ∧ m ≤ max old (aimOf score)
           ∧ (m : Int) = old + (((aimOf score : Int) - old) * gain + 4) / 8))
  ∧ (∀ (e0 e1 e2 e3 streak : Byte) (mastery : Nat),
     let table : Vector Byte 4 := #v[e0, e1, e2, e3]
     let e := if mastery < 64 then e0 else if mastery < 128 then e1 else if mastery < 192 then e2 else e3
     mastery < 256 →
       intervalOf table .exact mastery streak = (if 3 ≤ streak.toNat then 2 * e.toNat else e.toNat)
       ∧ intervalOf table .helped mastery streak = e.toNat ∧ intervalOf table .near mastery streak = e0.toNat
       ∧ intervalOf table .missed mastery streak = 1)

/-- The alignment leads from cell (0, 0) to cell (n, m), each step the first of R81's list that holds at its cell (R81); match
steps pair equal letters, and the other steps number the distance (R82). The first error is that of the earliest non-match
step, with the kind and the position of R83: there is one exactly when the entry is not the target. An entry letter is marked
RIGHT when a match step uses it and WRONG otherwise (R84). -/
def Obligations.MarksCoverTheLine : Prop :=
  ∀ entry target : List Byte,
    let steps := alignment entry target
    let d := cell (distanceTable entry target)
    let marks := marksOf entry target
    Leads (0, 0) steps (entry.length, target.length)
    ∧ (∀ x ∈ steps, ∀ i j, stepEnd x = (i, j) →
        let pairs := 1 ≤ i ∧ 1 ≤ j ∧ entry[i - 1]? = target[j - 1]? ∧ d i j = d (i - 1) (j - 1)
        let swaps :=
          2 ≤ i ∧ 2 ≤ j ∧ entry[i - 1]? = target[j - 2]? ∧ entry[i - 2]? = target[j - 1]?
            ∧ d i j = d (i - 2) (j - 2) + 1
        let substitutes := 1 ≤ i ∧ 1 ≤ j ∧ d i j = d (i - 1) (j - 1) + 1
        let omits := 1 ≤ j ∧ d i j = d i (j - 1) + 1
        (pairs ∧ x = .pair i j) ∨ (¬ pairs ∧ swaps ∧ x = .swap i j)
          ∨ (¬ pairs ∧ ¬ swaps ∧ substitutes ∧ x = .substitute i j)
          ∨ (¬ pairs ∧ ¬ swaps ∧ ¬ substitutes ∧ omits ∧ x = .omit i j)
          ∨ (¬ pairs ∧ ¬ swaps ∧ ¬ substitutes ∧ ¬ omits ∧ 1 ≤ i ∧ d i j = d (i - 1) j + 1 ∧ x = .insert i j))
    ∧ steps.countP (fun x => !isMatch x) = distance entry target
    ∧ (entry = target → firstErrorOf steps = none ∧ ∀ m ∈ marks, m = .right)
    ∧ (entry ≠ target →
        ∃ before x after e, steps = before ++ x :: after ∧ (∀ y ∈ before, isMatch y = true)
          ∧ firstErrorOf steps = some e ∧ errorOf x = some (e.kind, e.position)
          ∧ 1 ≤ e.position ∧ e.position ≤ target.length + 1)
    ∧ marks.length = entry.length
    ∧ (∀ i, i < entry.length →
        ((∃ j, AlignStep.pair (i + 1) j ∈ steps) → marks[i]? = some .right)
        ∧ ((∀ j, AlignStep.pair (i + 1) j ∉ steps) → marks[i]? = some .wrong))
end

