-- ==== Sys2Proof/Laws/State.lean ====
section
/-! SUPPORT. What each update of State leaves and what it writes, field by field, so that no later proof unfolds a record
update. -/
namespace Sys2Proof.Machine
open Sys2Proof

/-! ## Pairs -/

section Pair
variable {α : Type} (p : Pair α) (x y : α) (k : Seat)

@[simp] theorem otherSeat_ne : otherSeat k ≠ k := by cases k <;> decide
@[simp] theorem ne_otherSeat : k ≠ otherSeat k := by cases k <;> decide
@[simp] theorem otherSeat_otherSeat : otherSeat (otherSeat k) = k := by cases k <;> rfl
@[simp] theorem Pair.get_set_self : (p.set k x).get k = x := by cases k <;> rfl
@[simp] theorem Pair.get_set_other : (p.set k x).get (otherSeat k) = p.get (otherSeat k) := by cases k <;> rfl
@[simp] theorem Pair.get_other_set : (p.set (otherSeat k) x).get k = p.get k := by cases k <;> rfl
theorem Pair.get_set (j : Seat) : (p.set k x).get j = if j = k then x else p.get j := by cases k <;> cases j <;> rfl
@[simp] theorem Pair.set_get : p.set k (p.get k) = p := by cases k <;> rfl
@[simp] theorem Pair.set_set : (p.set k x).set k y = p.set k y := by cases k <;> rfl
@[simp] theorem Pair.get_a : p.get .a = p.a := rfl
@[simp] theorem Pair.get_b : p.get .b = p.b := rfl
@[simp] theorem Pair.set_a : p.set .a x = { p with a := x } := rfl
@[simp] theorem Pair.set_b : p.set .b x = { p with b := x } := rfl

end Pair

/-! ## Counters -/

section Counter
variable (c shown : Counter)

@[simp] theorem Counter.count_of_ne (h : c.value ≠ 65535) : c.count = { c with value := c.value + 1 } := if_neg h
@[simp] theorem Counter.count_full (n : Nat) :
    Counter.count { value := 65535, beyond := n } = { value := 65535, beyond := n + 1 } := rfl
@[simp] theorem Counter.reduce_beyond : (Counter.reduce shown c).beyond = 0 := rfl
@[simp] theorem Counter.reduce_self : Counter.reduce c c = .reset := by simp [Counter.reduce, Counter.reset]

/-- A counter never goes back, and it has counted one more: what its value and the counts at 65535 add up to. -/
theorem Counter.count_total : c.count.value.toNat + c.count.beyond = c.value.toNat + c.beyond + 1 := by
  unfold Counter.count
  split
  · simp only; omega
  · next h =>
    have : c.value.toNat ≠ 65535 := fun e => h (BitVec.eq_of_toNat_eq e)
    have := c.value.isLt
    simp only [BitVec.toNat_add]
    simp
    omega

end Counter

/-! ## The named updates -/

section Updates
variable (s : State) (k : Seat)

section setSeat
variable (c : SeatContext)
@[simp] theorem State.setSeat_clock : (s.setSeat k c).clock = s.clock := rfl
@[simp] theorem State.setSeat_timing : (s.setSeat k c).timing = s.timing := rfl
@[simp] theorem State.setSeat_matrices : (s.setSeat k c).matrices = s.matrices := rfl
@[simp] theorem State.setSeat_keyQueues : (s.setSeat k c).keyQueues = s.keyQueues := rfl
@[simp] theorem State.setSeat_lostKeys : (s.setSeat k c).lostKeys = s.lostKeys := rfl
@[simp] theorem State.setSeat_deck : (s.setSeat k c).deck = s.deck := rfl
@[simp] theorem State.setSeat_phrases : (s.setSeat k c).phrases = s.phrases := rfl
@[simp] theorem State.setSeat_lanes : (s.setSeat k c).lanes = s.lanes := rfl
@[simp] theorem State.setSeat_link : (s.setSeat k c).link = s.link := rfl
@[simp] theorem State.setSeat_reports : (s.setSeat k c).reports = s.reports := rfl
@[simp] theorem State.setSeat_mirror : (s.setSeat k c).mirror = s.mirror := rfl
@[simp] theorem State.setSeat_port : (s.setSeat k c).port = s.port := rfl
@[simp] theorem State.setSeat_pins : (s.setSeat k c).pins = s.pins := rfl
@[simp] theorem State.setSeat_nextEntryId : (s.setSeat k c).nextEntryId = s.nextEntryId := rfl
@[simp] theorem State.setSeat_pending : (s.setSeat k c).pending = s.pending := rfl
end setSeat

section mapSeat
variable (f : SeatContext → SeatContext)
@[simp] theorem State.mapSeat_clock : (s.mapSeat k f).clock = s.clock := rfl
@[simp] theorem State.mapSeat_timing : (s.mapSeat k f).timing = s.timing := rfl
@[simp] theorem State.mapSeat_matrices : (s.mapSeat k f).matrices = s.matrices := rfl
@[simp] theorem State.mapSeat_keyQueues : (s.mapSeat k f).keyQueues = s.keyQueues := rfl
@[simp] theorem State.mapSeat_lostKeys : (s.mapSeat k f).lostKeys = s.lostKeys := rfl
@[simp] theorem State.mapSeat_deck : (s.mapSeat k f).deck = s.deck := rfl
@[simp] theorem State.mapSeat_phrases : (s.mapSeat k f).phrases = s.phrases := rfl
@[simp] theorem State.mapSeat_lanes : (s.mapSeat k f).lanes = s.lanes := rfl
@[simp] theorem State.mapSeat_link : (s.mapSeat k f).link = s.link := rfl
@[simp] theorem State.mapSeat_reports : (s.mapSeat k f).reports = s.reports := rfl
@[simp] theorem State.mapSeat_mirror : (s.mapSeat k f).mirror = s.mirror := rfl
@[simp] theorem State.mapSeat_port : (s.mapSeat k f).port = s.port := rfl
@[simp] theorem State.mapSeat_pins : (s.mapSeat k f).pins = s.pins := rfl
@[simp] theorem State.mapSeat_nextEntryId : (s.mapSeat k f).nextEntryId = s.nextEntryId := rfl
@[simp] theorem State.mapSeat_pending : (s.mapSeat k f).pending = s.pending := rfl
end mapSeat

section setMatrix
variable (x : MatrixState)
@[simp] theorem State.setMatrix_clock : (s.setMatrix k x).clock = s.clock := rfl
@[simp] theorem State.setMatrix_timing : (s.setMatrix k x).timing = s.timing := rfl
@[simp] theorem State.setMatrix_keyQueues : (s.setMatrix k x).keyQueues = s.keyQueues := rfl
@[simp] theorem State.setMatrix_lostKeys : (s.setMatrix k x).lostKeys = s.lostKeys := rfl
@[simp] theorem State.setMatrix_deck : (s.setMatrix k x).deck = s.deck := rfl
@[simp] theorem State.setMatrix_seats : (s.setMatrix k x).seats = s.seats := rfl
@[simp] theorem State.setMatrix_phrases : (s.setMatrix k x).phrases = s.phrases := rfl
@[simp] theorem State.setMatrix_lanes : (s.setMatrix k x).lanes = s.lanes := rfl
@[simp] theorem State.setMatrix_link : (s.setMatrix k x).link = s.link := rfl
@[simp] theorem State.setMatrix_reports : (s.setMatrix k x).reports = s.reports := rfl
@[simp] theorem State.setMatrix_mirror : (s.setMatrix k x).mirror = s.mirror := rfl
@[simp] theorem State.setMatrix_port : (s.setMatrix k x).port = s.port := rfl
@[simp] theorem State.setMatrix_pins : (s.setMatrix k x).pins = s.pins := rfl
@[simp] theorem State.setMatrix_nextEntryId : (s.setMatrix k x).nextEntryId = s.nextEntryId := rfl
@[simp] theorem State.setMatrix_pending : (s.setMatrix k x).pending = s.pending := rfl
end setMatrix

section setKeyQueue
variable (q : List KeyEntry)
@[simp] theorem State.setKeyQueue_clock : (s.setKeyQueue k q).clock = s.clock := rfl
@[simp] theorem State.setKeyQueue_timing : (s.setKeyQueue k q).timing = s.timing := rfl
@[simp] theorem State.setKeyQueue_matrices : (s.setKeyQueue k q).matrices = s.matrices := rfl
@[simp] theorem State.setKeyQueue_lostKeys : (s.setKeyQueue k q).lostKeys = s.lostKeys := rfl
@[simp] theorem State.setKeyQueue_deck : (s.setKeyQueue k q).deck = s.deck := rfl
@[simp] theorem State.setKeyQueue_seats : (s.setKeyQueue k q).seats = s.seats := rfl
@[simp] theorem State.setKeyQueue_phrases : (s.setKeyQueue k q).phrases = s.phrases := rfl
@[simp] theorem State.setKeyQueue_lanes : (s.setKeyQueue k q).lanes = s.lanes := rfl
@[simp] theorem State.setKeyQueue_link : (s.setKeyQueue k q).link = s.link := rfl
@[simp] theorem State.setKeyQueue_reports : (s.setKeyQueue k q).reports = s.reports := rfl
@[simp] theorem State.setKeyQueue_mirror : (s.setKeyQueue k q).mirror = s.mirror := rfl
@[simp] theorem State.setKeyQueue_port : (s.setKeyQueue k q).port = s.port := rfl
@[simp] theorem State.setKeyQueue_pins : (s.setKeyQueue k q).pins = s.pins := rfl
@[simp] theorem State.setKeyQueue_nextEntryId : (s.setKeyQueue k q).nextEntryId = s.nextEntryId := rfl
@[simp] theorem State.setKeyQueue_pending : (s.setKeyQueue k q).pending = s.pending := rfl
end setKeyQueue

section setWord
variable (w : WordIndex) (r : WordRecord)
@[simp] theorem State.setWord_clock : (s.setWord w r).clock = s.clock := rfl
@[simp] theorem State.setWord_timing : (s.setWord w r).timing = s.timing := rfl
@[simp] theorem State.setWord_matrices : (s.setWord w r).matrices = s.matrices := rfl
@[simp] theorem State.setWord_keyQueues : (s.setWord w r).keyQueues = s.keyQueues := rfl
@[simp] theorem State.setWord_lostKeys : (s.setWord w r).lostKeys = s.lostKeys := rfl
@[simp] theorem State.setWord_seats : (s.setWord w r).seats = s.seats := rfl
@[simp] theorem State.setWord_phrases : (s.setWord w r).phrases = s.phrases := rfl
@[simp] theorem State.setWord_lanes : (s.setWord w r).lanes = s.lanes := rfl
@[simp] theorem State.setWord_link : (s.setWord w r).link = s.link := rfl
@[simp] theorem State.setWord_reports : (s.setWord w r).reports = s.reports := rfl
@[simp] theorem State.setWord_mirror : (s.setWord w r).mirror = s.mirror := rfl
@[simp] theorem State.setWord_port : (s.setWord w r).port = s.port := rfl
@[simp] theorem State.setWord_pins : (s.setWord w r).pins = s.pins := rfl
@[simp] theorem State.setWord_nextEntryId : (s.setWord w r).nextEntryId = s.nextEntryId := rfl
@[simp] theorem State.setWord_pending : (s.setWord w r).pending = s.pending := rfl
end setWord

section setProgress
variable (w : WordIndex) (p : Progress)
@[simp] theorem State.setProgress_clock : (s.setProgress w k p).clock = s.clock := rfl
@[simp] theorem State.setProgress_timing : (s.setProgress w k p).timing = s.timing := rfl
@[simp] theorem State.setProgress_matrices : (s.setProgress w k p).matrices = s.matrices := rfl
@[simp] theorem State.setProgress_keyQueues : (s.setProgress w k p).keyQueues = s.keyQueues := rfl
@[simp] theorem State.setProgress_lostKeys : (s.setProgress w k p).lostKeys = s.lostKeys := rfl
@[simp] theorem State.setProgress_seats : (s.setProgress w k p).seats = s.seats := rfl
@[simp] theorem State.setProgress_phrases : (s.setProgress w k p).phrases = s.phrases := rfl
@[simp] theorem State.setProgress_lanes : (s.setProgress w k p).lanes = s.lanes := rfl
@[simp] theorem State.setProgress_link : (s.setProgress w k p).link = s.link := rfl
@[simp] theorem State.setProgress_reports : (s.setProgress w k p).reports = s.reports := rfl
@[simp] theorem State.setProgress_mirror : (s.setProgress w k p).mirror = s.mirror := rfl
@[simp] theorem State.setProgress_port : (s.setProgress w k p).port = s.port := rfl
@[simp] theorem State.setProgress_pins : (s.setProgress w k p).pins = s.pins := rfl
@[simp] theorem State.setProgress_nextEntryId : (s.setProgress w k p).nextEntryId = s.nextEntryId := rfl
@[simp] theorem State.setProgress_pending : (s.setProgress w k p).pending = s.pending := rfl
end setProgress

section setHandle
variable (h : Handle) (r : HandleRecord)
@[simp] theorem State.setHandle_clock : (s.setHandle h r).clock = s.clock := rfl
@[simp] theorem State.setHandle_timing : (s.setHandle h r).timing = s.timing := rfl
@[simp] theorem State.setHandle_matrices : (s.setHandle h r).matrices = s.matrices := rfl
@[simp] theorem State.setHandle_keyQueues : (s.setHandle h r).keyQueues = s.keyQueues := rfl
@[simp] theorem State.setHandle_lostKeys : (s.setHandle h r).lostKeys = s.lostKeys := rfl
@[simp] theorem State.setHandle_deck : (s.setHandle h r).deck = s.deck := rfl
@[simp] theorem State.setHandle_seats : (s.setHandle h r).seats = s.seats := rfl
@[simp] theorem State.setHandle_lanes : (s.setHandle h r).lanes = s.lanes := rfl
@[simp] theorem State.setHandle_link : (s.setHandle h r).link = s.link := rfl
@[simp] theorem State.setHandle_reports : (s.setHandle h r).reports = s.reports := rfl
@[simp] theorem State.setHandle_mirror : (s.setHandle h r).mirror = s.mirror := rfl
@[simp] theorem State.setHandle_port : (s.setHandle h r).port = s.port := rfl
@[simp] theorem State.setHandle_pins : (s.setHandle h r).pins = s.pins := rfl
@[simp] theorem State.setHandle_nextEntryId : (s.setHandle h r).nextEntryId = s.nextEntryId := rfl
@[simp] theorem State.setHandle_pending : (s.setHandle h r).pending = s.pending := rfl
end setHandle

section setLane
variable (i : LaneId) (l : List SpeechEntry)
@[simp] theorem State.setLane_clock : (s.setLane i l).clock = s.clock := rfl
@[simp] theorem State.setLane_timing : (s.setLane i l).timing = s.timing := rfl
@[simp] theorem State.setLane_matrices : (s.setLane i l).matrices = s.matrices := rfl
@[simp] theorem State.setLane_keyQueues : (s.setLane i l).keyQueues = s.keyQueues := rfl
@[simp] theorem State.setLane_lostKeys : (s.setLane i l).lostKeys = s.lostKeys := rfl
@[simp] theorem State.setLane_deck : (s.setLane i l).deck = s.deck := rfl
@[simp] theorem State.setLane_seats : (s.setLane i l).seats = s.seats := rfl
@[simp] theorem State.setLane_phrases : (s.setLane i l).phrases = s.phrases := rfl
@[simp] theorem State.setLane_link : (s.setLane i l).link = s.link := rfl
@[simp] theorem State.setLane_reports : (s.setLane i l).reports = s.reports := rfl
@[simp] theorem State.setLane_mirror : (s.setLane i l).mirror = s.mirror := rfl
@[simp] theorem State.setLane_port : (s.setLane i l).port = s.port := rfl
@[simp] theorem State.setLane_pins : (s.setLane i l).pins = s.pins := rfl
@[simp] theorem State.setLane_nextEntryId : (s.setLane i l).nextEntryId = s.nextEntryId := rfl
@[simp] theorem State.setLane_pending : (s.setLane i l).pending = s.pending := rfl
end setLane

/-! What is read after an update of something else. -/
@[simp] theorem State.seat_setMatrix (x : MatrixState) (j : Seat) : (s.setMatrix k x).seat j = s.seat j := rfl
@[simp] theorem State.seat_setKeyQueue (q : List KeyEntry) (j : Seat) : (s.setKeyQueue k q).seat j = s.seat j := rfl
@[simp] theorem State.seat_setWord (w : WordIndex) (r : WordRecord) (j : Seat) : (s.setWord w r).seat j = s.seat j := rfl
@[simp] theorem State.seat_setProgress (w : WordIndex) (p : Progress) (j : Seat) : (s.setProgress w k p).seat j = s.seat j := rfl
@[simp] theorem State.seat_setHandle (h : Handle) (r : HandleRecord) (j : Seat) : (s.setHandle h r).seat j = s.seat j := rfl
@[simp] theorem State.seat_setLane (i : LaneId) (l : List SpeechEntry) (j : Seat) : (s.setLane i l).seat j = s.seat j := rfl
@[simp] theorem State.matrix_setSeat (c : SeatContext) (j : Seat) : (s.setSeat k c).matrix j = s.matrix j := rfl
@[simp] theorem State.matrix_mapSeat (f : SeatContext → SeatContext) (j : Seat) : (s.mapSeat k f).matrix j = s.matrix j := rfl
@[simp] theorem State.matrix_setKeyQueue (q : List KeyEntry) (j : Seat) : (s.setKeyQueue k q).matrix j = s.matrix j := rfl
@[simp] theorem State.matrix_setWord (w : WordIndex) (r : WordRecord) (j : Seat) : (s.setWord w r).matrix j = s.matrix j := rfl
@[simp] theorem State.matrix_setProgress (w : WordIndex) (p : Progress) (j : Seat) : (s.setProgress w k p).matrix j = s.matrix j := rfl
@[simp] theorem State.matrix_setHandle (h : Handle) (r : HandleRecord) (j : Seat) : (s.setHandle h r).matrix j = s.matrix j := rfl
@[simp] theorem State.matrix_setLane (i : LaneId) (l : List SpeechEntry) (j : Seat) : (s.setLane i l).matrix j = s.matrix j := rfl
@[simp] theorem State.keyQueue_setSeat (c : SeatContext) (j : Seat) : (s.setSeat k c).keyQueue j = s.keyQueue j := rfl
@[simp] theorem State.keyQueue_mapSeat (f : SeatContext → SeatContext) (j : Seat) : (s.mapSeat k f).keyQueue j = s.keyQueue j := rfl
@[simp] theorem State.keyQueue_setMatrix (x : MatrixState) (j : Seat) : (s.setMatrix k x).keyQueue j = s.keyQueue j := rfl
@[simp] theorem State.keyQueue_setWord (w : WordIndex) (r : WordRecord) (j : Seat) : (s.setWord w r).keyQueue j = s.keyQueue j := rfl
@[simp] theorem State.keyQueue_setProgress (w : WordIndex) (p : Progress) (j : Seat) : (s.setProgress w k p).keyQueue j = s.keyQueue j := rfl
@[simp] theorem State.keyQueue_setHandle (h : Handle) (r : HandleRecord) (j : Seat) : (s.setHandle h r).keyQueue j = s.keyQueue j := rfl
@[simp] theorem State.keyQueue_setLane (i : LaneId) (l : List SpeechEntry) (j : Seat) : (s.setLane i l).keyQueue j = s.keyQueue j := rfl
@[simp] theorem State.word_setSeat (c : SeatContext) (v : WordIndex) : (s.setSeat k c).word v = s.word v := rfl
@[simp] theorem State.word_mapSeat (f : SeatContext → SeatContext) (v : WordIndex) : (s.mapSeat k f).word v = s.word v := rfl
@[simp] theorem State.word_setMatrix (x : MatrixState) (v : WordIndex) : (s.setMatrix k x).word v = s.word v := rfl
@[simp] theorem State.word_setKeyQueue (q : List KeyEntry) (v : WordIndex) : (s.setKeyQueue k q).word v = s.word v := rfl
@[simp] theorem State.word_setHandle (h : Handle) (r : HandleRecord) (v : WordIndex) : (s.setHandle h r).word v = s.word v := rfl
@[simp] theorem State.word_setLane (i : LaneId) (l : List SpeechEntry) (v : WordIndex) : (s.setLane i l).word v = s.word v := rfl
@[simp] theorem State.progress_setSeat (c : SeatContext) (v : WordIndex) (j : Seat) : (s.setSeat k c).progress v j = s.progress v j := rfl
@[simp] theorem State.progress_mapSeat (f : SeatContext → SeatContext) (v : WordIndex) (j : Seat) : (s.mapSeat k f).progress v j = s.progress v j := rfl
@[simp] theorem State.progress_setMatrix (x : MatrixState) (v : WordIndex) (j : Seat) : (s.setMatrix k x).progress v j = s.progress v j := rfl
@[simp] theorem State.progress_setKeyQueue (q : List KeyEntry) (v : WordIndex) (j : Seat) : (s.setKeyQueue k q).progress v j = s.progress v j := rfl
@[simp] theorem State.progress_setHandle (h : Handle) (r : HandleRecord) (v : WordIndex) (j : Seat) : (s.setHandle h r).progress v j = s.progress v j := rfl
@[simp] theorem State.progress_setLane (i : LaneId) (l : List SpeechEntry) (v : WordIndex) (j : Seat) : (s.setLane i l).progress v j = s.progress v j := rfl
@[simp] theorem State.handle_setSeat (c : SeatContext) (g : Handle) : (s.setSeat k c).handle g = s.handle g := rfl
@[simp] theorem State.handle_mapSeat (f : SeatContext → SeatContext) (g : Handle) : (s.mapSeat k f).handle g = s.handle g := rfl
@[simp] theorem State.handle_setMatrix (x : MatrixState) (g : Handle) : (s.setMatrix k x).handle g = s.handle g := rfl
@[simp] theorem State.handle_setKeyQueue (q : List KeyEntry) (g : Handle) : (s.setKeyQueue k q).handle g = s.handle g := rfl
@[simp] theorem State.handle_setWord (w : WordIndex) (r : WordRecord) (g : Handle) : (s.setWord w r).handle g = s.handle g := rfl
@[simp] theorem State.handle_setProgress (w : WordIndex) (p : Progress) (g : Handle) : (s.setProgress w k p).handle g = s.handle g := rfl
@[simp] theorem State.handle_setLane (i : LaneId) (l : List SpeechEntry) (g : Handle) : (s.setLane i l).handle g = s.handle g := rfl
@[simp] theorem State.lane_setSeat (c : SeatContext) (l : LaneId) : (s.setSeat k c).lane l = s.lane l := rfl
@[simp] theorem State.lane_mapSeat (f : SeatContext → SeatContext) (l : LaneId) : (s.mapSeat k f).lane l = s.lane l := rfl
@[simp] theorem State.lane_setMatrix (x : MatrixState) (l : LaneId) : (s.setMatrix k x).lane l = s.lane l := rfl
@[simp] theorem State.lane_setKeyQueue (q : List KeyEntry) (l : LaneId) : (s.setKeyQueue k q).lane l = s.lane l := rfl
@[simp] theorem State.lane_setWord (w : WordIndex) (r : WordRecord) (l : LaneId) : (s.setWord w r).lane l = s.lane l := rfl
@[simp] theorem State.lane_setProgress (w : WordIndex) (p : Progress) (l : LaneId) : (s.setProgress w k p).lane l = s.lane l := rfl
@[simp] theorem State.lane_setHandle (h : Handle) (r : HandleRecord) (l : LaneId) : (s.setHandle h r).lane l = s.lane l := rfl

/-! What is read after an update of the same thing. -/
@[simp] theorem State.seat_setSeat_self (c : SeatContext) : (s.setSeat k c).seat k = c := by cases k <;> rfl
@[simp] theorem State.seat_setSeat_other (c : SeatContext) : (s.setSeat k c).seat (otherSeat k) = s.seat (otherSeat k) := by
  cases k <;> rfl
@[simp] theorem State.seat_mapSeat_self (f : SeatContext → SeatContext) : (s.mapSeat k f).seat k = f (s.seat k) := by
  cases k <;> rfl
@[simp] theorem State.seat_mapSeat_other (f : SeatContext → SeatContext) :
    (s.mapSeat k f).seat (otherSeat k) = s.seat (otherSeat k) := by cases k <;> rfl
@[simp] theorem State.matrix_setMatrix_self (x : MatrixState) : (s.setMatrix k x).matrix k = x := by cases k <;> rfl
@[simp] theorem State.matrix_setMatrix_other (x : MatrixState) :
    (s.setMatrix k x).matrix (otherSeat k) = s.matrix (otherSeat k) := by cases k <;> rfl
@[simp] theorem State.keyQueue_setKeyQueue_self (q : List KeyEntry) : (s.setKeyQueue k q).keyQueue k = q := by
  cases k <;> rfl
@[simp] theorem State.keyQueue_setKeyQueue_other (q : List KeyEntry) :
    (s.setKeyQueue k q).keyQueue (otherSeat k) = s.keyQueue (otherSeat k) := by cases k <;> rfl
theorem State.word_setWord (w v : WordIndex) (r : WordRecord) :
    (s.setWord w r).word v = if v = w then r else s.word v := by
  simp only [State.word, State.setWord, Vector.getElem_set, Fin.ext_iff, eq_comm]
@[simp] theorem State.word_setWord_self (w : WordIndex) (r : WordRecord) : (s.setWord w r).word w = r := by
  simp [State.word_setWord]
@[simp] theorem State.progress_setProgress_self (w : WordIndex) (p : Progress) :
    (s.setProgress w k p).progress w k = p := by simp [State.progress, State.setProgress]
@[simp] theorem State.progress_setProgress_other (w : WordIndex) (p : Progress) :
    (s.setProgress w k p).progress w (otherSeat k) = s.progress w (otherSeat k) := by
  simp [State.progress, State.setProgress]
theorem State.handle_setHandle (h g : Handle) (r : HandleRecord) :
    (s.setHandle h r).handle g = if g = h then r else s.handle g := by
  simp only [State.handle, State.setHandle, Vector.getElem_set, Fin.ext_iff, eq_comm]
@[simp] theorem State.handle_setHandle_self (h : Handle) (r : HandleRecord) : (s.setHandle h r).handle h = r := by
  simp [State.handle_setHandle]
theorem Lanes.get_set (l : Lanes) (i j : LaneId) (x : List SpeechEntry) :
    (l.set i x).get j = if j = i then x else l.get j := by
  cases i with
  | system => cases j <;> rfl
  | prompt k => cases j with
    | prompt m => cases k <;> cases m <;> rfl
    | system => rfl
    | echo m => rfl
  | echo k => cases j with
    | echo m => cases k <;> cases m <;> rfl
    | system => rfl
    | prompt m => rfl
theorem State.lane_setLane (i j : LaneId) (x : List SpeechEntry) :
    (s.setLane i x).lane j = if j = i then x else s.lane j := Lanes.get_set _ _ _ _
@[simp] theorem State.lane_setLane_self (i : LaneId) (x : List SpeechEntry) : (s.setLane i x).lane i = x := by
  simp [State.lane_setLane]
@[simp] theorem Lanes.set_feedback (l : Lanes) (i : LaneId) (x : List SpeechEntry) : (l.set i x).feedback = l.feedback := by
  cases i <;> rfl
@[simp] theorem Lanes.set_dropped (l : Lanes) (i : LaneId) (x : List SpeechEntry) : (l.set i x).dropped = l.dropped := by
  cases i <;> rfl
@[simp] theorem State.setLane_feedback (i : LaneId) (x : List SpeechEntry) :
    (s.setLane i x).lanes.feedback = s.lanes.feedback := Lanes.set_feedback _ _ _

end Updates

end Sys2Proof.Machine
end

