-- ==== Sys2Proof/Laws/Frames.lean ====
section
/-! SUPPORT. What each shared operation leaves alone, field by field of State. -/
namespace Sys2Proof.Machine
open Sys2Proof


@[simp] theorem raiseFault_frame (kind : FaultKind) (detail : Byte) (s : State) :
    (raiseFault kind detail s).clock = s.clock ∧ (raiseFault kind detail s).timing = s.timing
    ∧ (raiseFault kind detail s).matrices = s.matrices ∧ (raiseFault kind detail s).keyQueues = s.keyQueues
    ∧ (raiseFault kind detail s).lostKeys = s.lostKeys ∧ (raiseFault kind detail s).deck = s.deck
    ∧ (raiseFault kind detail s).seats = s.seats ∧ (raiseFault kind detail s).phrases = s.phrases
    ∧ (raiseFault kind detail s).lanes = s.lanes ∧ (raiseFault kind detail s).link = s.link
    ∧ (raiseFault kind detail s).mirror = s.mirror ∧ (raiseFault kind detail s).port = s.port
    ∧ (raiseFault kind detail s).pins = s.pins ∧ (raiseFault kind detail s).nextEntryId = s.nextEntryId
    ∧ (raiseFault kind detail s).pending = s.pending := by
  simp [raiseFault]

@[simp] theorem refreshCauses_frame (s : State) :
    (refreshCauses s).clock = s.clock ∧ (refreshCauses s).timing = s.timing
    ∧ (refreshCauses s).matrices = s.matrices ∧ (refreshCauses s).keyQueues = s.keyQueues
    ∧ (refreshCauses s).lostKeys = s.lostKeys ∧ (refreshCauses s).deck = s.deck
    ∧ (refreshCauses s).seats = s.seats ∧ (refreshCauses s).phrases = s.phrases
    ∧ (refreshCauses s).lanes = s.lanes ∧ (refreshCauses s).link = s.link ∧ (refreshCauses s).mirror = s.mirror
    ∧ (refreshCauses s).port = s.port ∧ (refreshCauses s).pins = s.pins
    ∧ (refreshCauses s).nextEntryId = s.nextEntryId ∧ (refreshCauses s).pending = s.pending := by
  simp [refreshCauses]

@[simp] theorem takeRecord_frame (body : Report) (s : State) :
    (takeRecord body s).clock = s.clock ∧ (takeRecord body s).timing = s.timing
    ∧ (takeRecord body s).matrices = s.matrices ∧ (takeRecord body s).keyQueues = s.keyQueues
    ∧ (takeRecord body s).lostKeys = s.lostKeys ∧ (takeRecord body s).deck = s.deck
    ∧ (takeRecord body s).seats = s.seats ∧ (takeRecord body s).phrases = s.phrases
    ∧ (takeRecord body s).lanes = s.lanes ∧ (takeRecord body s).link = s.link
    ∧ (takeRecord body s).mirror = s.mirror ∧ (takeRecord body s).port = s.port
    ∧ (takeRecord body s).pins = s.pins ∧ (takeRecord body s).nextEntryId = s.nextEntryId
    ∧ (takeRecord body s).pending = s.pending := by
  simp only [takeRecord]
  simp

@[simp] theorem offerRecord_frame (body : Report) (s : State) :
    (offerRecord body s).clock = s.clock ∧ (offerRecord body s).timing = s.timing
    ∧ (offerRecord body s).matrices = s.matrices ∧ (offerRecord body s).keyQueues = s.keyQueues
    ∧ (offerRecord body s).lostKeys = s.lostKeys ∧ (offerRecord body s).deck = s.deck
    ∧ (offerRecord body s).seats = s.seats ∧ (offerRecord body s).phrases = s.phrases
    ∧ (offerRecord body s).lanes = s.lanes ∧ (offerRecord body s).link = s.link
    ∧ (offerRecord body s).mirror = s.mirror ∧ (offerRecord body s).port = s.port
    ∧ (offerRecord body s).pins = s.pins ∧ (offerRecord body s).nextEntryId = s.nextEntryId
    ∧ (offerRecord body s).pending = s.pending := by
  simp only [offerRecord]
  repeat' split
  all_goals simp

@[simp] theorem postEvent_frame (k : Seat) (event : SeatEvent) (s : State) :
    (postEvent k event s).clock = s.clock ∧ (postEvent k event s).timing = s.timing
    ∧ (postEvent k event s).matrices = s.matrices ∧ (postEvent k event s).keyQueues = s.keyQueues
    ∧ (postEvent k event s).lostKeys = s.lostKeys ∧ (postEvent k event s).deck = s.deck
    ∧ (postEvent k event s).seats = s.seats ∧ (postEvent k event s).phrases = s.phrases
    ∧ (postEvent k event s).lanes = s.lanes ∧ (postEvent k event s).link = s.link
    ∧ (postEvent k event s).mirror = s.mirror ∧ (postEvent k event s).port = s.port
    ∧ (postEvent k event s).pins = s.pins ∧ (postEvent k event s).nextEntryId = s.nextEntryId
    ∧ (postEvent k event s).pending = s.pending := by
  simp [postEvent]

@[simp] theorem storePhrase_frame (h : Handle) (kind : HandleState) (items : List Item) (s : State) :
    (storePhrase h kind items s).clock = s.clock ∧ (storePhrase h kind items s).timing = s.timing
    ∧ (storePhrase h kind items s).matrices = s.matrices ∧ (storePhrase h kind items s).keyQueues = s.keyQueues
    ∧ (storePhrase h kind items s).lostKeys = s.lostKeys ∧ (storePhrase h kind items s).deck = s.deck
    ∧ (storePhrase h kind items s).seats = s.seats ∧ (storePhrase h kind items s).lanes = s.lanes
    ∧ (storePhrase h kind items s).link = s.link ∧ (storePhrase h kind items s).reports = s.reports
    ∧ (storePhrase h kind items s).mirror = s.mirror ∧ (storePhrase h kind items s).port = s.port
    ∧ (storePhrase h kind items s).pins = s.pins ∧ (storePhrase h kind items s).nextEntryId = s.nextEntryId
    ∧ (storePhrase h kind items s).pending = s.pending := by
  simp [storePhrase]

@[simp] theorem returnPages_frame (h : Handle) (s : State) :
    (returnPages h s).clock = s.clock ∧ (returnPages h s).timing = s.timing
    ∧ (returnPages h s).matrices = s.matrices ∧ (returnPages h s).keyQueues = s.keyQueues
    ∧ (returnPages h s).lostKeys = s.lostKeys ∧ (returnPages h s).deck = s.deck
    ∧ (returnPages h s).seats = s.seats ∧ (returnPages h s).lanes = s.lanes ∧ (returnPages h s).link = s.link
    ∧ (returnPages h s).reports = s.reports ∧ (returnPages h s).mirror = s.mirror
    ∧ (returnPages h s).port = s.port ∧ (returnPages h s).pins = s.pins
    ∧ (returnPages h s).nextEntryId = s.nextEntryId ∧ (returnPages h s).pending = s.pending := by
  simp only [returnPages]
  repeat' split
  all_goals simp

@[simp] theorem releaseReference_frame (h : Handle) (s : State) :
    (releaseReference h s).clock = s.clock ∧ (releaseReference h s).timing = s.timing
    ∧ (releaseReference h s).matrices = s.matrices ∧ (releaseReference h s).keyQueues = s.keyQueues
    ∧ (releaseReference h s).lostKeys = s.lostKeys ∧ (releaseReference h s).deck = s.deck
    ∧ (releaseReference h s).seats = s.seats ∧ (releaseReference h s).lanes = s.lanes
    ∧ (releaseReference h s).link = s.link ∧ (releaseReference h s).reports = s.reports
    ∧ (releaseReference h s).mirror = s.mirror ∧ (releaseReference h s).port = s.port
    ∧ (releaseReference h s).pins = s.pins ∧ (releaseReference h s).nextEntryId = s.nextEntryId
    ∧ (releaseReference h s).pending = s.pending := by
  simp only [releaseReference]
  simp

@[simp] theorem freePhrase_frame (h : Handle) (s : State) :
    (freePhrase h s).clock = s.clock ∧ (freePhrase h s).timing = s.timing
    ∧ (freePhrase h s).matrices = s.matrices ∧ (freePhrase h s).keyQueues = s.keyQueues
    ∧ (freePhrase h s).lostKeys = s.lostKeys ∧ (freePhrase h s).deck = s.deck ∧ (freePhrase h s).seats = s.seats
    ∧ (freePhrase h s).lanes = s.lanes ∧ (freePhrase h s).link = s.link ∧ (freePhrase h s).reports = s.reports
    ∧ (freePhrase h s).mirror = s.mirror ∧ (freePhrase h s).port = s.port ∧ (freePhrase h s).pins = s.pins
    ∧ (freePhrase h s).nextEntryId = s.nextEntryId ∧ (freePhrase h s).pending = s.pending := by
  simp only [freePhrase]
  simp

@[simp] theorem setInFlightEntry_frame (e : SpeechEntry) (s : State) :
    (setInFlightEntry e s).clock = s.clock ∧ (setInFlightEntry e s).timing = s.timing
    ∧ (setInFlightEntry e s).matrices = s.matrices ∧ (setInFlightEntry e s).keyQueues = s.keyQueues
    ∧ (setInFlightEntry e s).lostKeys = s.lostKeys ∧ (setInFlightEntry e s).deck = s.deck
    ∧ (setInFlightEntry e s).seats = s.seats ∧ (setInFlightEntry e s).phrases = s.phrases
    ∧ (setInFlightEntry e s).link = s.link ∧ (setInFlightEntry e s).reports = s.reports
    ∧ (setInFlightEntry e s).mirror = s.mirror ∧ (setInFlightEntry e s).port = s.port
    ∧ (setInFlightEntry e s).pins = s.pins ∧ (setInFlightEntry e s).nextEntryId = s.nextEntryId
    ∧ (setInFlightEntry e s).pending = s.pending := by
  simp only [setInFlightEntry]
  repeat' split
  all_goals simp

@[simp] theorem joinLane_frame
    (lane : LaneId) (content : Content) (origin : SpeechOrigin) (seat : Option Seat) (channel : Option Channel) (tag : Byte) (s : State) :
    (joinLane lane content origin seat channel tag s).clock = s.clock
    ∧ (joinLane lane content origin seat channel tag s).timing = s.timing
    ∧ (joinLane lane content origin seat channel tag s).matrices = s.matrices
    ∧ (joinLane lane content origin seat channel tag s).keyQueues = s.keyQueues
    ∧ (joinLane lane content origin seat channel tag s).lostKeys = s.lostKeys
    ∧ (joinLane lane content origin seat channel tag s).deck = s.deck
    ∧ (joinLane lane content origin seat channel tag s).seats = s.seats
    ∧ (joinLane lane content origin seat channel tag s).phrases = s.phrases
    ∧ (joinLane lane content origin seat channel tag s).link = s.link
    ∧ (joinLane lane content origin seat channel tag s).reports = s.reports
    ∧ (joinLane lane content origin seat channel tag s).mirror = s.mirror
    ∧ (joinLane lane content origin seat channel tag s).port = s.port
    ∧ (joinLane lane content origin seat channel tag s).pins = s.pins
    ∧ (joinLane lane content origin seat channel tag s).pending = s.pending := by
  simp [joinLane]

@[simp] theorem queueEcho_frame (k : Seat) (content : Content) (s : State) :
    (queueEcho k content s).clock = s.clock ∧ (queueEcho k content s).timing = s.timing
    ∧ (queueEcho k content s).matrices = s.matrices ∧ (queueEcho k content s).keyQueues = s.keyQueues
    ∧ (queueEcho k content s).lostKeys = s.lostKeys ∧ (queueEcho k content s).deck = s.deck
    ∧ (queueEcho k content s).seats = s.seats ∧ (queueEcho k content s).phrases = s.phrases
    ∧ (queueEcho k content s).link = s.link ∧ (queueEcho k content s).reports = s.reports
    ∧ (queueEcho k content s).mirror = s.mirror ∧ (queueEcho k content s).port = s.port
    ∧ (queueEcho k content s).pins = s.pins ∧ (queueEcho k content s).pending = s.pending := by
  simp only [queueEcho]
  repeat' split
  all_goals simp

@[simp] theorem queueBump_frame (k : Seat) (s : State) :
    (queueBump k s).clock = s.clock ∧ (queueBump k s).timing = s.timing ∧ (queueBump k s).matrices = s.matrices
    ∧ (queueBump k s).keyQueues = s.keyQueues ∧ (queueBump k s).lostKeys = s.lostKeys
    ∧ (queueBump k s).deck = s.deck ∧ (queueBump k s).seats = s.seats ∧ (queueBump k s).phrases = s.phrases
    ∧ (queueBump k s).link = s.link ∧ (queueBump k s).reports = s.reports ∧ (queueBump k s).mirror = s.mirror
    ∧ (queueBump k s).port = s.port ∧ (queueBump k s).pins = s.pins ∧ (queueBump k s).pending = s.pending := by
  simp [queueBump]

@[simp] theorem queueBuzz_frame (k : Seat) (s : State) :
    (queueBuzz k s).clock = s.clock ∧ (queueBuzz k s).timing = s.timing ∧ (queueBuzz k s).matrices = s.matrices
    ∧ (queueBuzz k s).keyQueues = s.keyQueues ∧ (queueBuzz k s).lostKeys = s.lostKeys
    ∧ (queueBuzz k s).deck = s.deck ∧ (queueBuzz k s).seats = s.seats ∧ (queueBuzz k s).phrases = s.phrases
    ∧ (queueBuzz k s).link = s.link ∧ (queueBuzz k s).reports = s.reports ∧ (queueBuzz k s).mirror = s.mirror
    ∧ (queueBuzz k s).port = s.port ∧ (queueBuzz k s).pins = s.pins ∧ (queueBuzz k s).pending = s.pending := by
  simp [queueBuzz]

@[simp] theorem removeEntry_frame (lane : LaneId) (e : SpeechEntry) (s : State) :
    (removeEntry lane e s).clock = s.clock ∧ (removeEntry lane e s).timing = s.timing
    ∧ (removeEntry lane e s).matrices = s.matrices ∧ (removeEntry lane e s).keyQueues = s.keyQueues
    ∧ (removeEntry lane e s).lostKeys = s.lostKeys ∧ (removeEntry lane e s).deck = s.deck
    ∧ (removeEntry lane e s).seats = s.seats ∧ (removeEntry lane e s).link = s.link
    ∧ (removeEntry lane e s).reports = s.reports ∧ (removeEntry lane e s).mirror = s.mirror
    ∧ (removeEntry lane e s).port = s.port ∧ (removeEntry lane e s).pins = s.pins
    ∧ (removeEntry lane e s).nextEntryId = s.nextEntryId ∧ (removeEntry lane e s).pending = s.pending := by
  simp only [removeEntry]
  repeat' split
  all_goals simp

@[simp] theorem leaveLane_frame (lane : LaneId) (outcome : SpeechOutcome) (e : SpeechEntry) (s : State) :
    (leaveLane lane outcome e s).clock = s.clock ∧ (leaveLane lane outcome e s).timing = s.timing
    ∧ (leaveLane lane outcome e s).matrices = s.matrices ∧ (leaveLane lane outcome e s).keyQueues = s.keyQueues
    ∧ (leaveLane lane outcome e s).lostKeys = s.lostKeys ∧ (leaveLane lane outcome e s).deck = s.deck
    ∧ (leaveLane lane outcome e s).seats = s.seats ∧ (leaveLane lane outcome e s).link = s.link
    ∧ (leaveLane lane outcome e s).mirror = s.mirror ∧ (leaveLane lane outcome e s).port = s.port
    ∧ (leaveLane lane outcome e s).pins = s.pins ∧ (leaveLane lane outcome e s).nextEntryId = s.nextEntryId
    ∧ (leaveLane lane outcome e s).pending = s.pending := by
  simp only [leaveLane]
  repeat' split
  all_goals simp

@[simp] theorem markCutPending_frame (which : SpeechEntry → Bool) (s : State) :
    (markCutPending which s).clock = s.clock ∧ (markCutPending which s).timing = s.timing
    ∧ (markCutPending which s).matrices = s.matrices ∧ (markCutPending which s).keyQueues = s.keyQueues
    ∧ (markCutPending which s).lostKeys = s.lostKeys ∧ (markCutPending which s).deck = s.deck
    ∧ (markCutPending which s).seats = s.seats ∧ (markCutPending which s).phrases = s.phrases
    ∧ (markCutPending which s).link = s.link ∧ (markCutPending which s).reports = s.reports
    ∧ (markCutPending which s).mirror = s.mirror ∧ (markCutPending which s).port = s.port
    ∧ (markCutPending which s).pins = s.pins ∧ (markCutPending which s).nextEntryId = s.nextEntryId
    ∧ (markCutPending which s).pending = s.pending := by
  simp only [markCutPending]
  repeat' split
  all_goals simp

@[simp] theorem orphanInFlight_frame (k : Seat) (s : State) :
    (orphanInFlight k s).clock = s.clock ∧ (orphanInFlight k s).timing = s.timing
    ∧ (orphanInFlight k s).matrices = s.matrices ∧ (orphanInFlight k s).keyQueues = s.keyQueues
    ∧ (orphanInFlight k s).lostKeys = s.lostKeys ∧ (orphanInFlight k s).deck = s.deck
    ∧ (orphanInFlight k s).seats = s.seats ∧ (orphanInFlight k s).phrases = s.phrases
    ∧ (orphanInFlight k s).link = s.link ∧ (orphanInFlight k s).reports = s.reports
    ∧ (orphanInFlight k s).mirror = s.mirror ∧ (orphanInFlight k s).port = s.port
    ∧ (orphanInFlight k s).pins = s.pins ∧ (orphanInFlight k s).nextEntryId = s.nextEntryId
    ∧ (orphanInFlight k s).pending = s.pending := by
  simp only [orphanInFlight]
  repeat' split
  all_goals simp

@[simp] theorem settlePins_frame (s : State) :
    (settlePins s).clock = s.clock ∧ (settlePins s).timing = s.timing ∧ (settlePins s).matrices = s.matrices
    ∧ (settlePins s).keyQueues = s.keyQueues ∧ (settlePins s).lostKeys = s.lostKeys
    ∧ (settlePins s).deck = s.deck ∧ (settlePins s).seats = s.seats ∧ (settlePins s).phrases = s.phrases
    ∧ (settlePins s).lanes = s.lanes ∧ (settlePins s).link = s.link ∧ (settlePins s).reports = s.reports
    ∧ (settlePins s).mirror = s.mirror ∧ (settlePins s).port = s.port
    ∧ (settlePins s).nextEntryId = s.nextEntryId ∧ (settlePins s).pending = s.pending := by
  simp [settlePins]

@[simp] theorem settleIdle_frame (k : Seat) (s : State) :
    (settleIdle k s).clock = s.clock ∧ (settleIdle k s).timing = s.timing
    ∧ (settleIdle k s).matrices = s.matrices ∧ (settleIdle k s).keyQueues = s.keyQueues
    ∧ (settleIdle k s).lostKeys = s.lostKeys ∧ (settleIdle k s).deck = s.deck
    ∧ (settleIdle k s).phrases = s.phrases ∧ (settleIdle k s).lanes = s.lanes ∧ (settleIdle k s).link = s.link
    ∧ (settleIdle k s).reports = s.reports ∧ (settleIdle k s).mirror = s.mirror ∧ (settleIdle k s).port = s.port
    ∧ (settleIdle k s).pins = s.pins ∧ (settleIdle k s).nextEntryId = s.nextEntryId
    ∧ (settleIdle k s).pending = s.pending := by
  simp [settleIdle]

@[simp] theorem settle_frame (s : State) :
    (settle s).clock = s.clock ∧ (settle s).timing = s.timing ∧ (settle s).matrices = s.matrices
    ∧ (settle s).keyQueues = s.keyQueues ∧ (settle s).lostKeys = s.lostKeys ∧ (settle s).deck = s.deck
    ∧ (settle s).phrases = s.phrases ∧ (settle s).lanes = s.lanes ∧ (settle s).link = s.link
    ∧ (settle s).reports = s.reports ∧ (settle s).mirror = s.mirror ∧ (settle s).port = s.port
    ∧ (settle s).nextEntryId = s.nextEntryId ∧ (settle s).pending = s.pending := by
  simp only [settle]
  simp

@[simp] theorem writeImage_frame (k : Seat) (v : Verdict) (s : State) :
    (writeImage k v s).clock = s.clock ∧ (writeImage k v s).timing = s.timing
    ∧ (writeImage k v s).matrices = s.matrices ∧ (writeImage k v s).keyQueues = s.keyQueues
    ∧ (writeImage k v s).lostKeys = s.lostKeys ∧ (writeImage k v s).deck = s.deck
    ∧ (writeImage k v s).seats = s.seats ∧ (writeImage k v s).phrases = s.phrases
    ∧ (writeImage k v s).lanes = s.lanes ∧ (writeImage k v s).link = s.link
    ∧ (writeImage k v s).reports = s.reports ∧ (writeImage k v s).port = s.port
    ∧ (writeImage k v s).pins = s.pins ∧ (writeImage k v s).nextEntryId = s.nextEntryId
    ∧ (writeImage k v s).pending = s.pending := by
  simp only [writeImage]
  simp

@[simp] theorem writeImageKeepingVerdict_frame (k : Seat) (s : State) :
    (writeImageKeepingVerdict k s).clock = s.clock ∧ (writeImageKeepingVerdict k s).timing = s.timing
    ∧ (writeImageKeepingVerdict k s).matrices = s.matrices
    ∧ (writeImageKeepingVerdict k s).keyQueues = s.keyQueues
    ∧ (writeImageKeepingVerdict k s).lostKeys = s.lostKeys ∧ (writeImageKeepingVerdict k s).deck = s.deck
    ∧ (writeImageKeepingVerdict k s).seats = s.seats ∧ (writeImageKeepingVerdict k s).phrases = s.phrases
    ∧ (writeImageKeepingVerdict k s).lanes = s.lanes ∧ (writeImageKeepingVerdict k s).link = s.link
    ∧ (writeImageKeepingVerdict k s).reports = s.reports ∧ (writeImageKeepingVerdict k s).port = s.port
    ∧ (writeImageKeepingVerdict k s).pins = s.pins ∧ (writeImageKeepingVerdict k s).nextEntryId = s.nextEntryId
    ∧ (writeImageKeepingVerdict k s).pending = s.pending := by
  simp [writeImageKeepingVerdict]

@[simp] theorem recordPosted_frame (p : PendingResult) (s : State) :
    (recordPosted p s).clock = s.clock ∧ (recordPosted p s).timing = s.timing
    ∧ (recordPosted p s).matrices = s.matrices ∧ (recordPosted p s).keyQueues = s.keyQueues
    ∧ (recordPosted p s).lostKeys = s.lostKeys ∧ (recordPosted p s).seats = s.seats
    ∧ (recordPosted p s).phrases = s.phrases ∧ (recordPosted p s).lanes = s.lanes
    ∧ (recordPosted p s).link = s.link ∧ (recordPosted p s).reports = s.reports
    ∧ (recordPosted p s).mirror = s.mirror ∧ (recordPosted p s).port = s.port ∧ (recordPosted p s).pins = s.pins
    ∧ (recordPosted p s).nextEntryId = s.nextEntryId ∧ (recordPosted p s).pending = s.pending := by
  simp [recordPosted]

@[simp] theorem storeWord_frame (r : WordRequest) (s : State) :
    (storeWord r s).clock = s.clock ∧ (storeWord r s).timing = s.timing ∧ (storeWord r s).matrices = s.matrices
    ∧ (storeWord r s).keyQueues = s.keyQueues ∧ (storeWord r s).lostKeys = s.lostKeys
    ∧ (storeWord r s).seats = s.seats ∧ (storeWord r s).phrases = s.phrases ∧ (storeWord r s).lanes = s.lanes
    ∧ (storeWord r s).link = s.link ∧ (storeWord r s).reports = s.reports ∧ (storeWord r s).mirror = s.mirror
    ∧ (storeWord r s).port = s.port ∧ (storeWord r s).pins = s.pins
    ∧ (storeWord r s).nextEntryId = s.nextEntryId ∧ (storeWord r s).pending = s.pending := by
  simp [storeWord]

@[simp] theorem clearForWord_frame (k : Seat) (w : WordIndex) (s : State) :
    (clearForWord k w s).clock = s.clock ∧ (clearForWord k w s).timing = s.timing
    ∧ (clearForWord k w s).matrices = s.matrices ∧ (clearForWord k w s).lostKeys = s.lostKeys
    ∧ (clearForWord k w s).deck = s.deck ∧ (clearForWord k w s).phrases = s.phrases
    ∧ (clearForWord k w s).lanes = s.lanes ∧ (clearForWord k w s).link = s.link
    ∧ (clearForWord k w s).reports = s.reports ∧ (clearForWord k w s).mirror = s.mirror
    ∧ (clearForWord k w s).port = s.port ∧ (clearForWord k w s).pins = s.pins
    ∧ (clearForWord k w s).nextEntryId = s.nextEntryId ∧ (clearForWord k w s).pending = s.pending := by
  simp only [clearForWord]
  repeat' split
  all_goals simp

/-- A drill phrase that was queued: its handle was KEPT and the prompt lane had room (R45, R118); it takes a reference and
joins the tail. -/
theorem queueDrillPhrase_some {k : Seat} {origin : SpeechOrigin} {h : Option Handle} {s t : State} {id : Nat}
    (e : queueDrillPhrase k origin h s = some (id, t)) :
    ∃ g : Handle, h = some g ∧ (s.handle g).state = .kept ∧ (s.lane (.prompt k)).length < Config.promptLaneSize
      ∧ id = s.nextEntryId
      ∧ t = joinLane (.prompt k) (.phrase g) origin (some k) none 0
          (s.setHandle g { s.handle g with references := (s.handle g).references + 1 }) := by
  unfold queueDrillPhrase at e
  split at e
  · simp at e
  · rename_i g
    by_cases hc : (s.handle g).state = .kept ∧ (s.lane (.prompt k)).length < Config.promptLaneSize
    · simp only [hc, and_self, if_true, takeReference] at e
      simp only [Option.some.injEq, Prod.mk.injEq] at e
      refine ⟨g, rfl, hc.1, hc.2, e.1.symm, ?_⟩
      rw [← e.2]
      simp only [hc.1]
    · simp [hc] at e

theorem queueDrillPhrase_frame {k : Seat} {origin : SpeechOrigin} {h : Option Handle} {s t : State} {id : Nat}
    (e : queueDrillPhrase k origin h s = some (id, t)) :
    t.clock = s.clock ∧ t.timing = s.timing ∧ t.matrices = s.matrices ∧ t.keyQueues = s.keyQueues
    ∧ t.lostKeys = s.lostKeys ∧ t.deck = s.deck ∧ t.seats = s.seats ∧ t.link = s.link ∧ t.reports = s.reports
    ∧ t.mirror = s.mirror ∧ t.port = s.port ∧ t.pins = s.pins ∧ t.pending = s.pending := by
  obtain ⟨g, -, -, -, -, rfl⟩ := queueDrillPhrase_some e
  simp

@[simp] theorem queueOrSkip_frame (k : Seat) (origin : SpeechOrigin) (h : Option Handle) (s : State) :
    (queueOrSkip k origin h s).clock = s.clock ∧ (queueOrSkip k origin h s).timing = s.timing
    ∧ (queueOrSkip k origin h s).matrices = s.matrices ∧ (queueOrSkip k origin h s).keyQueues = s.keyQueues
    ∧ (queueOrSkip k origin h s).lostKeys = s.lostKeys ∧ (queueOrSkip k origin h s).deck = s.deck
    ∧ (queueOrSkip k origin h s).seats = s.seats ∧ (queueOrSkip k origin h s).link = s.link
    ∧ (queueOrSkip k origin h s).reports = s.reports ∧ (queueOrSkip k origin h s).mirror = s.mirror
    ∧ (queueOrSkip k origin h s).port = s.port ∧ (queueOrSkip k origin h s).pins = s.pins
    ∧ (queueOrSkip k origin h s).pending = s.pending := by
  simp only [queueOrSkip]
  split
  · rename_i e; exact queueDrillPhrase_frame e
  · simp

@[simp] theorem replayWord_frame (k : Seat) (r : WordRecord) (s : State) :
    (replayWord k r s).2.clock = s.clock ∧ (replayWord k r s).2.timing = s.timing
    ∧ (replayWord k r s).2.matrices = s.matrices ∧ (replayWord k r s).2.keyQueues = s.keyQueues
    ∧ (replayWord k r s).2.lostKeys = s.lostKeys ∧ (replayWord k r s).2.deck = s.deck
    ∧ (replayWord k r s).2.seats = s.seats ∧ (replayWord k r s).2.link = s.link
    ∧ (replayWord k r s).2.reports = s.reports ∧ (replayWord k r s).2.mirror = s.mirror
    ∧ (replayWord k r s).2.port = s.port ∧ (replayWord k r s).2.pins = s.pins
    ∧ (replayWord k r s).2.pending = s.pending := by
  simp only [replayWord]
  split
  · rename_i e; simp [queueDrillPhrase_frame e]
  · split
    · rename_i e; exact queueDrillPhrase_frame e
    · simp

@[simp] theorem present_frame (k : Seat) (w : WordIndex) (s : State) :
    (present k w s).clock = s.clock ∧ (present k w s).timing = s.timing ∧ (present k w s).matrices = s.matrices
    ∧ (present k w s).lostKeys = s.lostKeys ∧ (present k w s).deck = s.deck ∧ (present k w s).link = s.link
    ∧ (present k w s).port = s.port ∧ (present k w s).pins = s.pins ∧ (present k w s).pending = s.pending := by
  simp only [present]
  split
  · rename_i e; simp [queueDrillPhrase_frame e]
  · simp

@[simp] theorem toIdle_frame (k : Seat) (s : State) :
    (toIdle k s).clock = s.clock ∧ (toIdle k s).timing = s.timing ∧ (toIdle k s).matrices = s.matrices
    ∧ (toIdle k s).keyQueues = s.keyQueues ∧ (toIdle k s).lostKeys = s.lostKeys ∧ (toIdle k s).deck = s.deck
    ∧ (toIdle k s).phrases = s.phrases ∧ (toIdle k s).lanes = s.lanes ∧ (toIdle k s).link = s.link
    ∧ (toIdle k s).reports = s.reports ∧ (toIdle k s).port = s.port ∧ (toIdle k s).pins = s.pins
    ∧ (toIdle k s).nextEntryId = s.nextEntryId ∧ (toIdle k s).pending = s.pending := by
  simp [toIdle]

@[simp] theorem presentPick_frame (k : Seat) (s : State) :
    (presentPick k s).clock = s.clock ∧ (presentPick k s).timing = s.timing
    ∧ (presentPick k s).matrices = s.matrices ∧ (presentPick k s).lostKeys = s.lostKeys
    ∧ (presentPick k s).deck = s.deck ∧ (presentPick k s).link = s.link ∧ (presentPick k s).port = s.port
    ∧ (presentPick k s).pins = s.pins ∧ (presentPick k s).pending = s.pending := by
  simp only [presentPick]
  repeat' split
  all_goals simp

@[simp] theorem tryPost_frame (k : Seat) (s : State) :
    (tryPost k s).clock = s.clock ∧ (tryPost k s).timing = s.timing ∧ (tryPost k s).matrices = s.matrices
    ∧ (tryPost k s).keyQueues = s.keyQueues ∧ (tryPost k s).lostKeys = s.lostKeys
    ∧ (tryPost k s).phrases = s.phrases ∧ (tryPost k s).lanes = s.lanes ∧ (tryPost k s).link = s.link
    ∧ (tryPost k s).mirror = s.mirror ∧ (tryPost k s).port = s.port ∧ (tryPost k s).pins = s.pins
    ∧ (tryPost k s).nextEntryId = s.nextEntryId ∧ (tryPost k s).pending = s.pending := by
  simp only [tryPost]
  repeat' split
  all_goals simp

@[simp] theorem leaveReviewIfDone_frame (k : Seat) (s : State) :
    (leaveReviewIfDone k s).clock = s.clock ∧ (leaveReviewIfDone k s).timing = s.timing
    ∧ (leaveReviewIfDone k s).matrices = s.matrices ∧ (leaveReviewIfDone k s).lostKeys = s.lostKeys
    ∧ (leaveReviewIfDone k s).deck = s.deck ∧ (leaveReviewIfDone k s).link = s.link
    ∧ (leaveReviewIfDone k s).port = s.port ∧ (leaveReviewIfDone k s).pins = s.pins
    ∧ (leaveReviewIfDone k s).pending = s.pending := by
  simp only [leaveReviewIfDone]
  repeat' split
  all_goals simp

@[simp] theorem carryOutRetry_frame (k : Seat) (s : State) :
    (carryOutRetry k s).clock = s.clock ∧ (carryOutRetry k s).timing = s.timing
    ∧ (carryOutRetry k s).matrices = s.matrices ∧ (carryOutRetry k s).keyQueues = s.keyQueues
    ∧ (carryOutRetry k s).lostKeys = s.lostKeys ∧ (carryOutRetry k s).deck = s.deck
    ∧ (carryOutRetry k s).phrases = s.phrases ∧ (carryOutRetry k s).lanes = s.lanes
    ∧ (carryOutRetry k s).link = s.link ∧ (carryOutRetry k s).reports = s.reports
    ∧ (carryOutRetry k s).port = s.port ∧ (carryOutRetry k s).pins = s.pins
    ∧ (carryOutRetry k s).nextEntryId = s.nextEntryId ∧ (carryOutRetry k s).pending = s.pending := by
  simp [carryOutRetry]

@[simp] theorem retryIfDone_frame (k : Seat) (s : State) :
    (retryIfDone k s).clock = s.clock ∧ (retryIfDone k s).timing = s.timing
    ∧ (retryIfDone k s).matrices = s.matrices ∧ (retryIfDone k s).keyQueues = s.keyQueues
    ∧ (retryIfDone k s).lostKeys = s.lostKeys ∧ (retryIfDone k s).deck = s.deck
    ∧ (retryIfDone k s).phrases = s.phrases ∧ (retryIfDone k s).lanes = s.lanes
    ∧ (retryIfDone k s).link = s.link ∧ (retryIfDone k s).reports = s.reports ∧ (retryIfDone k s).port = s.port
    ∧ (retryIfDone k s).pins = s.pins ∧ (retryIfDone k s).nextEntryId = s.nextEntryId
    ∧ (retryIfDone k s).pending = s.pending := by
  simp only [retryIfDone]
  repeat' split
  all_goals simp

@[simp] theorem promptDone_frame (k : Seat) (s : State) :
    (promptDone k s).clock = s.clock ∧ (promptDone k s).timing = s.timing
    ∧ (promptDone k s).matrices = s.matrices ∧ (promptDone k s).keyQueues = s.keyQueues
    ∧ (promptDone k s).lostKeys = s.lostKeys ∧ (promptDone k s).deck = s.deck
    ∧ (promptDone k s).phrases = s.phrases ∧ (promptDone k s).lanes = s.lanes ∧ (promptDone k s).link = s.link
    ∧ (promptDone k s).reports = s.reports ∧ (promptDone k s).port = s.port ∧ (promptDone k s).pins = s.pins
    ∧ (promptDone k s).nextEntryId = s.nextEntryId ∧ (promptDone k s).pending = s.pending := by
  simp only [promptDone]
  repeat' split
  all_goals simp

@[simp] theorem feedbackDone_frame (k : Seat) (s : State) :
    (feedbackDone k s).clock = s.clock ∧ (feedbackDone k s).timing = s.timing
    ∧ (feedbackDone k s).matrices = s.matrices ∧ (feedbackDone k s).lostKeys = s.lostKeys
    ∧ (feedbackDone k s).deck = s.deck ∧ (feedbackDone k s).link = s.link ∧ (feedbackDone k s).port = s.port
    ∧ (feedbackDone k s).pins = s.pins ∧ (feedbackDone k s).pending = s.pending := by
  simp only [feedbackDone]
  simp

@[simp] theorem tellSeat_frame (e : SpeechEntry) (s : State) :
    (tellSeat e s).clock = s.clock ∧ (tellSeat e s).timing = s.timing ∧ (tellSeat e s).matrices = s.matrices
    ∧ (tellSeat e s).lostKeys = s.lostKeys ∧ (tellSeat e s).deck = s.deck ∧ (tellSeat e s).link = s.link
    ∧ (tellSeat e s).port = s.port ∧ (tellSeat e s).pins = s.pins ∧ (tellSeat e s).pending = s.pending := by
  simp only [tellSeat]
  repeat' split
  all_goals simp

@[simp] theorem leaveEach_tellSeat_frame
    (lane : LaneId) (outcome : SpeechOutcome) (es : List SpeechEntry) (s : State) :
    (leaveEach lane outcome tellSeat es s).clock = s.clock
    ∧ (leaveEach lane outcome tellSeat es s).timing = s.timing
    ∧ (leaveEach lane outcome tellSeat es s).matrices = s.matrices
    ∧ (leaveEach lane outcome tellSeat es s).lostKeys = s.lostKeys
    ∧ (leaveEach lane outcome tellSeat es s).deck = s.deck
    ∧ (leaveEach lane outcome tellSeat es s).link = s.link
    ∧ (leaveEach lane outcome tellSeat es s).port = s.port
    ∧ (leaveEach lane outcome tellSeat es s).pins = s.pins
    ∧ (leaveEach lane outcome tellSeat es s).pending = s.pending := by
  unfold leaveEach
  induction es generalizing s with
  | nil => simp
  | cons e es ih => simp [List.foldl_cons, ih]

@[simp] theorem bargeIn_frame (k : Seat) (s : State) :
    (bargeIn k s).clock = s.clock ∧ (bargeIn k s).timing = s.timing ∧ (bargeIn k s).matrices = s.matrices
    ∧ (bargeIn k s).lostKeys = s.lostKeys ∧ (bargeIn k s).deck = s.deck ∧ (bargeIn k s).link = s.link
    ∧ (bargeIn k s).port = s.port ∧ (bargeIn k s).pins = s.pins ∧ (bargeIn k s).pending = s.pending := by
  simp only [bargeIn]
  simp

@[simp] theorem bargeInIfOn_frame (k : Seat) (s : State) :
    (bargeInIfOn k s).clock = s.clock ∧ (bargeInIfOn k s).timing = s.timing
    ∧ (bargeInIfOn k s).matrices = s.matrices ∧ (bargeInIfOn k s).lostKeys = s.lostKeys
    ∧ (bargeInIfOn k s).deck = s.deck ∧ (bargeInIfOn k s).link = s.link ∧ (bargeInIfOn k s).port = s.port
    ∧ (bargeInIfOn k s).pins = s.pins ∧ (bargeInIfOn k s).pending = s.pending := by
  simp only [bargeInIfOn]
  repeat' split
  all_goals simp

@[simp] theorem takeLetter_frame (k : Seat) (letter : Byte) (s : State) :
    (takeLetter k letter s).clock = s.clock ∧ (takeLetter k letter s).timing = s.timing
    ∧ (takeLetter k letter s).matrices = s.matrices ∧ (takeLetter k letter s).lostKeys = s.lostKeys
    ∧ (takeLetter k letter s).deck = s.deck ∧ (takeLetter k letter s).link = s.link
    ∧ (takeLetter k letter s).port = s.port ∧ (takeLetter k letter s).pins = s.pins
    ∧ (takeLetter k letter s).pending = s.pending := by
  simp only [takeLetter]
  repeat' split
  all_goals simp

@[simp] theorem takeErase_frame (k : Seat) (s : State) :
    (takeErase k s).clock = s.clock ∧ (takeErase k s).timing = s.timing ∧ (takeErase k s).matrices = s.matrices
    ∧ (takeErase k s).keyQueues = s.keyQueues ∧ (takeErase k s).lostKeys = s.lostKeys
    ∧ (takeErase k s).deck = s.deck ∧ (takeErase k s).phrases = s.phrases ∧ (takeErase k s).link = s.link
    ∧ (takeErase k s).reports = s.reports ∧ (takeErase k s).port = s.port ∧ (takeErase k s).pins = s.pins
    ∧ (takeErase k s).pending = s.pending := by
  simp only [takeErase]
  repeat' split
  all_goals simp

@[simp] theorem takeHint_frame (k : Seat) (s : State) :
    (takeHint k s).clock = s.clock ∧ (takeHint k s).timing = s.timing ∧ (takeHint k s).matrices = s.matrices
    ∧ (takeHint k s).lostKeys = s.lostKeys ∧ (takeHint k s).deck = s.deck ∧ (takeHint k s).link = s.link
    ∧ (takeHint k s).port = s.port ∧ (takeHint k s).pins = s.pins ∧ (takeHint k s).pending = s.pending := by
  simp only [takeHint]
  repeat' split
  all_goals simp

@[simp] theorem takeSayAgain_frame (k : Seat) (s : State) :
    (takeSayAgain k s).clock = s.clock ∧ (takeSayAgain k s).timing = s.timing
    ∧ (takeSayAgain k s).matrices = s.matrices ∧ (takeSayAgain k s).keyQueues = s.keyQueues
    ∧ (takeSayAgain k s).lostKeys = s.lostKeys ∧ (takeSayAgain k s).deck = s.deck
    ∧ (takeSayAgain k s).link = s.link ∧ (takeSayAgain k s).reports = s.reports
    ∧ (takeSayAgain k s).mirror = s.mirror ∧ (takeSayAgain k s).port = s.port ∧ (takeSayAgain k s).pins = s.pins
    ∧ (takeSayAgain k s).pending = s.pending := by
  simp only [takeSayAgain]
  repeat' split
  · simp
  · simp
  all_goals
    rename_i e
    have h := replayWord_frame k (s.word ‹_›) s
    rw [e] at h
    simp at h
    simp [h]

@[simp] theorem takeMash_frame (k : Seat) (s : State) :
    (takeMash k s).clock = s.clock ∧ (takeMash k s).timing = s.timing ∧ (takeMash k s).matrices = s.matrices
    ∧ (takeMash k s).keyQueues = s.keyQueues ∧ (takeMash k s).lostKeys = s.lostKeys
    ∧ (takeMash k s).deck = s.deck ∧ (takeMash k s).seats = s.seats ∧ (takeMash k s).link = s.link
    ∧ (takeMash k s).mirror = s.mirror ∧ (takeMash k s).port = s.port ∧ (takeMash k s).pins = s.pins
    ∧ (takeMash k s).pending = s.pending := by
  simp only [takeMash]
  simp

@[simp] theorem enterRetry_frame (k : Seat) (verdict : Verdict) (s : State) :
    (enterRetry k verdict s).clock = s.clock ∧ (enterRetry k verdict s).timing = s.timing
    ∧ (enterRetry k verdict s).matrices = s.matrices ∧ (enterRetry k verdict s).keyQueues = s.keyQueues
    ∧ (enterRetry k verdict s).lostKeys = s.lostKeys ∧ (enterRetry k verdict s).deck = s.deck
    ∧ (enterRetry k verdict s).link = s.link ∧ (enterRetry k verdict s).reports = s.reports
    ∧ (enterRetry k verdict s).port = s.port ∧ (enterRetry k verdict s).pins = s.pins
    ∧ (enterRetry k verdict s).pending = s.pending := by
  simp only [enterRetry]
  split
  · rename_i e; simp [queueDrillPhrase_frame e]
  · simp

@[simp] theorem enterFinal_frame (k : Seat) (w : WordIndex) (j : Judgement) (s : State) :
    (enterFinal k w j s).clock = s.clock ∧ (enterFinal k w j s).timing = s.timing
    ∧ (enterFinal k w j s).matrices = s.matrices ∧ (enterFinal k w j s).lostKeys = s.lostKeys
    ∧ (enterFinal k w j s).link = s.link ∧ (enterFinal k w j s).port = s.port
    ∧ (enterFinal k w j s).pins = s.pins ∧ (enterFinal k w j s).pending = s.pending := by
  simp only [enterFinal]
  split
  · rename_i e; simp [queueDrillPhrase_frame e]
  · simp

@[simp] theorem takeEnter_frame (k : Seat) (s : State) :
    (takeEnter k s).clock = s.clock ∧ (takeEnter k s).timing = s.timing ∧ (takeEnter k s).matrices = s.matrices
    ∧ (takeEnter k s).lostKeys = s.lostKeys ∧ (takeEnter k s).link = s.link ∧ (takeEnter k s).port = s.port
    ∧ (takeEnter k s).pins = s.pins ∧ (takeEnter k s).pending = s.pending := by
  simp only [takeEnter]
  repeat' split
  all_goals simp

@[simp] theorem takeKey_frame (k : Seat) (e : KeyEntry) (s : State) :
    (takeKey k e s).clock = s.clock ∧ (takeKey k e s).timing = s.timing ∧ (takeKey k e s).matrices = s.matrices
    ∧ (takeKey k e s).lostKeys = s.lostKeys ∧ (takeKey k e s).link = s.link ∧ (takeKey k e s).port = s.port
    ∧ (takeKey k e s).pins = s.pins ∧ (takeKey k e s).pending = s.pending := by
  simp only [takeKey]
  repeat' split
  all_goals simp

@[simp] theorem takeKeysUpTo_frame (n : Nat) (k : Seat) (s : State) :
    (takeKeysUpTo n k s).clock = s.clock ∧ (takeKeysUpTo n k s).timing = s.timing
    ∧ (takeKeysUpTo n k s).matrices = s.matrices ∧ (takeKeysUpTo n k s).lostKeys = s.lostKeys
    ∧ (takeKeysUpTo n k s).link = s.link ∧ (takeKeysUpTo n k s).port = s.port
    ∧ (takeKeysUpTo n k s).pins = s.pins ∧ (takeKeysUpTo n k s).pending = s.pending := by
  induction n generalizing s with
  | zero => simp [takeKeysUpTo]
  | succ n ih => unfold takeKeysUpTo; split <;> simp [ih]

@[simp] theorem takeKeys_frame (k : Seat) (s : State) :
    (takeKeys k s).clock = s.clock ∧ (takeKeys k s).timing = s.timing ∧ (takeKeys k s).matrices = s.matrices
    ∧ (takeKeys k s).lostKeys = s.lostKeys ∧ (takeKeys k s).link = s.link ∧ (takeKeys k s).port = s.port
    ∧ (takeKeys k s).pins = s.pins ∧ (takeKeys k s).pending = s.pending := by
  simp only [takeKeys]
  simp

@[simp] theorem pause_frame (k : Seat) (reason : PauseReason) (s : State) :
    (pause k reason s).clock = s.clock ∧ (pause k reason s).timing = s.timing
    ∧ (pause k reason s).matrices = s.matrices ∧ (pause k reason s).keyQueues = s.keyQueues
    ∧ (pause k reason s).lostKeys = s.lostKeys ∧ (pause k reason s).deck = s.deck
    ∧ (pause k reason s).phrases = s.phrases ∧ (pause k reason s).lanes = s.lanes
    ∧ (pause k reason s).link = s.link ∧ (pause k reason s).reports = s.reports
    ∧ (pause k reason s).port = s.port ∧ (pause k reason s).pins = s.pins
    ∧ (pause k reason s).nextEntryId = s.nextEntryId ∧ (pause k reason s).pending = s.pending := by
  simp only [pause]
  repeat' split
  all_goals simp

@[simp] theorem resume_frame (k : Seat) (s : State) :
    (resume k s).clock = s.clock ∧ (resume k s).timing = s.timing ∧ (resume k s).matrices = s.matrices
    ∧ (resume k s).lostKeys = s.lostKeys ∧ (resume k s).link = s.link ∧ (resume k s).port = s.port
    ∧ (resume k s).pins = s.pins ∧ (resume k s).pending = s.pending := by
  simp only [resume]
  repeat' split
  all_goals simp

@[simp] theorem pauseKey_frame (k : Seat) (s : State) :
    (pauseKey k s).clock = s.clock ∧ (pauseKey k s).timing = s.timing ∧ (pauseKey k s).matrices = s.matrices
    ∧ (pauseKey k s).lostKeys = s.lostKeys ∧ (pauseKey k s).link = s.link ∧ (pauseKey k s).port = s.port
    ∧ (pauseKey k s).pins = s.pins ∧ (pauseKey k s).pending = s.pending := by
  simp only [pauseKey]
  repeat' split
  all_goals simp

@[simp] theorem pauseForLesson_frame (k : Seat) (s : State) :
    (pauseForLesson k s).clock = s.clock ∧ (pauseForLesson k s).timing = s.timing
    ∧ (pauseForLesson k s).matrices = s.matrices ∧ (pauseForLesson k s).keyQueues = s.keyQueues
    ∧ (pauseForLesson k s).lostKeys = s.lostKeys ∧ (pauseForLesson k s).deck = s.deck
    ∧ (pauseForLesson k s).phrases = s.phrases ∧ (pauseForLesson k s).lanes = s.lanes
    ∧ (pauseForLesson k s).link = s.link ∧ (pauseForLesson k s).reports = s.reports
    ∧ (pauseForLesson k s).port = s.port ∧ (pauseForLesson k s).pins = s.pins
    ∧ (pauseForLesson k s).nextEntryId = s.nextEntryId ∧ (pauseForLesson k s).pending = s.pending := by
  simp only [pauseForLesson]
  repeat' split
  all_goals simp

@[simp] theorem startSeat_frame (k : Seat) (s : State) :
    (startSeat k s).clock = s.clock ∧ (startSeat k s).timing = s.timing ∧ (startSeat k s).matrices = s.matrices
    ∧ (startSeat k s).keyQueues = s.keyQueues ∧ (startSeat k s).lostKeys = s.lostKeys
    ∧ (startSeat k s).deck = s.deck ∧ (startSeat k s).phrases = s.phrases ∧ (startSeat k s).lanes = s.lanes
    ∧ (startSeat k s).link = s.link ∧ (startSeat k s).reports = s.reports ∧ (startSeat k s).port = s.port
    ∧ (startSeat k s).pins = s.pins ∧ (startSeat k s).nextEntryId = s.nextEntryId
    ∧ (startSeat k s).pending = s.pending := by
  simp [startSeat]

@[simp] theorem abandon_frame (k : Seat) (s : State) :
    (abandon k s).clock = s.clock ∧ (abandon k s).timing = s.timing ∧ (abandon k s).matrices = s.matrices
    ∧ (abandon k s).lostKeys = s.lostKeys ∧ (abandon k s).deck = s.deck ∧ (abandon k s).link = s.link
    ∧ (abandon k s).port = s.port ∧ (abandon k s).pins = s.pins ∧ (abandon k s).pending = s.pending := by
  simp only [abandon]
  simp

@[simp] theorem nextWord_frame (k : Seat) (index : Option WordIndex) (s : State) :
    (nextWord k index s).clock = s.clock ∧ (nextWord k index s).timing = s.timing
    ∧ (nextWord k index s).matrices = s.matrices ∧ (nextWord k index s).lostKeys = s.lostKeys
    ∧ (nextWord k index s).link = s.link ∧ (nextWord k index s).port = s.port
    ∧ (nextWord k index s).pins = s.pins ∧ (nextWord k index s).pending = s.pending := by
  simp only [nextWord]
  repeat' split
  all_goals simp

@[simp] theorem stopSeat_frame (k : Seat) (s : State) :
    (stopSeat k s).clock = s.clock ∧ (stopSeat k s).timing = s.timing ∧ (stopSeat k s).matrices = s.matrices
    ∧ (stopSeat k s).lostKeys = s.lostKeys ∧ (stopSeat k s).deck = s.deck ∧ (stopSeat k s).link = s.link
    ∧ (stopSeat k s).port = s.port ∧ (stopSeat k s).pins = s.pins ∧ (stopSeat k s).pending = s.pending := by
  simp only [stopSeat]
  simp

@[simp] theorem loseKey_frame (k : Seat) (s : State) :
    (loseKey k s).clock = s.clock ∧ (loseKey k s).timing = s.timing ∧ (loseKey k s).matrices = s.matrices
    ∧ (loseKey k s).deck = s.deck ∧ (loseKey k s).seats = s.seats ∧ (loseKey k s).phrases = s.phrases
    ∧ (loseKey k s).lanes = s.lanes ∧ (loseKey k s).link = s.link ∧ (loseKey k s).mirror = s.mirror
    ∧ (loseKey k s).port = s.port ∧ (loseKey k s).pins = s.pins ∧ (loseKey k s).nextEntryId = s.nextEntryId
    ∧ (loseKey k s).pending = s.pending := by
  simp only [loseKey]
  simp

@[simp] theorem routeEntry_frame (k : Seat) (code : Byte) (kind : KeyKind) (s : State) :
    (routeEntry k code kind s).clock = s.clock ∧ (routeEntry k code kind s).timing = s.timing
    ∧ (routeEntry k code kind s).matrices = s.matrices ∧ (routeEntry k code kind s).link = s.link
    ∧ (routeEntry k code kind s).port = s.port ∧ (routeEntry k code kind s).pins = s.pins
    ∧ (routeEntry k code kind s).pending = s.pending := by
  simp only [routeEntry]
  repeat' split
  all_goals simp

@[simp] theorem routePress_frame (m : Seat) (code : Byte) (s : State) :
    (routePress m code s).clock = s.clock ∧ (routePress m code s).timing = s.timing
    ∧ (routePress m code s).matrices = s.matrices ∧ (routePress m code s).link = s.link
    ∧ (routePress m code s).port = s.port ∧ (routePress m code s).pins = s.pins
    ∧ (routePress m code s).pending = s.pending := by
  simp only [routePress]
  repeat' split
  all_goals simp

@[simp] theorem pressEvent_frame (m : Seat) (p : Position) (code : Byte) (s : State) :
    (pressEvent m p code s).clock = s.clock ∧ (pressEvent m p code s).timing = s.timing
    ∧ (pressEvent m p code s).link = s.link ∧ (pressEvent m p code s).port = s.port
    ∧ (pressEvent m p code s).pins = s.pins ∧ (pressEvent m p code s).pending = s.pending := by
  simp only [pressEvent]
  repeat' split
  all_goals simp

@[simp] theorem mashCheck_frame (m : Seat) (s : State) :
    (mashCheck m s).clock = s.clock ∧ (mashCheck m s).timing = s.timing ∧ (mashCheck m s).link = s.link
    ∧ (mashCheck m s).port = s.port ∧ (mashCheck m s).pins = s.pins ∧ (mashCheck m s).pending = s.pending := by
  simp only [mashCheck]
  repeat' split
  all_goals simp

@[simp] theorem completeKey_frame (m : Seat) (p : Position) (s : State) :
    (completeKey m p s).clock = s.clock ∧ (completeKey m p s).timing = s.timing
    ∧ (completeKey m p s).link = s.link ∧ (completeKey m p s).port = s.port ∧ (completeKey m p s).pins = s.pins
    ∧ (completeKey m p s).pending = s.pending := by
  simp only [completeKey]
  repeat' split
  all_goals simp

@[simp] theorem scanKey_frame (m : Seat) (p : Position) (pressed : Bool) (s : State) :
    (scanKey m p pressed s).clock = s.clock ∧ (scanKey m p pressed s).timing = s.timing
    ∧ (scanKey m p pressed s).link = s.link ∧ (scanKey m p pressed s).port = s.port
    ∧ (scanKey m p pressed s).pins = s.pins ∧ (scanKey m p pressed s).pending = s.pending := by
  simp only [scanKey]
  repeat' split
  all_goals simp

@[simp] theorem scanPosition_frame (m : Seat) (readings : BitVec 64) (p : Nat) (s : State) :
    (scanPosition m readings p s).clock = s.clock ∧ (scanPosition m readings p s).timing = s.timing
    ∧ (scanPosition m readings p s).link = s.link ∧ (scanPosition m readings p s).port = s.port
    ∧ (scanPosition m readings p s).pins = s.pins ∧ (scanPosition m readings p s).pending = s.pending := by
  simp only [scanPosition]
  repeat' split
  all_goals simp

@[simp] theorem scanRest_frame (m : Seat) (readings : BitVec 64) (p : Nat) (s : State) :
    (scanRest m readings p s).clock = s.clock ∧ (scanRest m readings p s).timing = s.timing
    ∧ (scanRest m readings p s).link = s.link ∧ (scanRest m readings p s).port = s.port
    ∧ (scanRest m readings p s).pins = s.pins ∧ (scanRest m readings p s).pending = s.pending := by
  unfold scanRest
  generalize (List.range Config.keyCount).drop p = qs
  induction qs generalizing s with
  | nil => simp
  | cons q qs ih => simp [List.foldl_cons, ih]

@[simp] theorem endPass_frame (m : Seat) (s : State) :
    (endPass m s).clock = s.clock ∧ (endPass m s).timing = s.timing ∧ (endPass m s).keyQueues = s.keyQueues
    ∧ (endPass m s).lostKeys = s.lostKeys ∧ (endPass m s).deck = s.deck ∧ (endPass m s).seats = s.seats
    ∧ (endPass m s).phrases = s.phrases ∧ (endPass m s).lanes = s.lanes ∧ (endPass m s).link = s.link
    ∧ (endPass m s).reports = s.reports ∧ (endPass m s).mirror = s.mirror ∧ (endPass m s).port = s.port
    ∧ (endPass m s).pins = s.pins ∧ (endPass m s).nextEntryId = s.nextEntryId
    ∧ (endPass m s).pending = s.pending := by
  simp only [endPass]
  repeat' split
  all_goals simp

@[simp] theorem scanPasses_frame (readA readB : BitVec 64) (order : List Seat) (p q : Nat) (s : State) :
    (scanPasses readA readB order p q s).clock = s.clock
    ∧ (scanPasses readA readB order p q s).timing = s.timing
    ∧ (scanPasses readA readB order p q s).link = s.link ∧ (scanPasses readA readB order p q s).port = s.port
    ∧ (scanPasses readA readB order p q s).pins = s.pins
    ∧ (scanPasses readA readB order p q s).pending = s.pending := by
  induction order generalizing p q s with
  | nil => simp [scanPasses]
  | cons k order ih => cases k <;> simp [scanPasses, ih]

@[simp] theorem complete_frame (outcome : SpeechOutcome) (s : State) :
    (complete outcome s).clock = s.clock ∧ (complete outcome s).timing = s.timing
    ∧ (complete outcome s).matrices = s.matrices ∧ (complete outcome s).lostKeys = s.lostKeys
    ∧ (complete outcome s).port = s.port ∧ (complete outcome s).pins = s.pins
    ∧ (complete outcome s).pending = s.pending := by
  simp only [complete]
  repeat' split
  all_goals simp

@[simp] theorem fireRepeat_frame (m : Seat) (s : State) :
    (fireRepeat m s).clock = s.clock ∧ (fireRepeat m s).timing = s.timing ∧ (fireRepeat m s).link = s.link
    ∧ (fireRepeat m s).port = s.port ∧ (fireRepeat m s).pins = s.pins ∧ (fireRepeat m s).pending = s.pending := by
  simp only [fireRepeat]
  repeat' split
  all_goals simp

@[simp] theorem nudge_frame (k : Seat) (s : State) :
    (nudge k s).clock = s.clock ∧ (nudge k s).timing = s.timing ∧ (nudge k s).matrices = s.matrices
    ∧ (nudge k s).keyQueues = s.keyQueues ∧ (nudge k s).lostKeys = s.lostKeys ∧ (nudge k s).deck = s.deck
    ∧ (nudge k s).link = s.link ∧ (nudge k s).mirror = s.mirror ∧ (nudge k s).port = s.port
    ∧ (nudge k s).pins = s.pins ∧ (nudge k s).pending = s.pending := by
  simp only [nudge]
  split
  · rename_i e; simp [queueDrillPhrase_frame e]
  · simp

@[simp] theorem fireIdle_frame (k : Seat) (s : State) :
    (fireIdle k s).clock = s.clock ∧ (fireIdle k s).timing = s.timing ∧ (fireIdle k s).matrices = s.matrices
    ∧ (fireIdle k s).keyQueues = s.keyQueues ∧ (fireIdle k s).lostKeys = s.lostKeys
    ∧ (fireIdle k s).deck = s.deck ∧ (fireIdle k s).link = s.link ∧ (fireIdle k s).port = s.port
    ∧ (fireIdle k s).pins = s.pins ∧ (fireIdle k s).pending = s.pending := by
  simp only [fireIdle]
  repeat' split
  all_goals simp

@[simp] theorem fireResponse_frame (timeoutFirst : Bool) (s : State) :
    (fireResponse timeoutFirst s).clock = s.clock ∧ (fireResponse timeoutFirst s).timing = s.timing
    ∧ (fireResponse timeoutFirst s).matrices = s.matrices ∧ (fireResponse timeoutFirst s).lostKeys = s.lostKeys
    ∧ (fireResponse timeoutFirst s).port = s.port ∧ (fireResponse timeoutFirst s).pins = s.pins
    ∧ (fireResponse timeoutFirst s).pending = s.pending := by
  simp only [fireResponse]
  repeat' split
  all_goals simp

@[simp] theorem fireAged_frame (s : State) :
    (fireAged s).clock = s.clock ∧ (fireAged s).timing = s.timing ∧ (fireAged s).matrices = s.matrices
    ∧ (fireAged s).keyQueues = s.keyQueues ∧ (fireAged s).lostKeys = s.lostKeys ∧ (fireAged s).deck = s.deck
    ∧ (fireAged s).seats = s.seats ∧ (fireAged s).phrases = s.phrases ∧ (fireAged s).lanes = s.lanes
    ∧ (fireAged s).link = s.link ∧ (fireAged s).mirror = s.mirror ∧ (fireAged s).port = s.port
    ∧ (fireAged s).pins = s.pins ∧ (fireAged s).nextEntryId = s.nextEntryId ∧ (fireAged s).pending = s.pending := by
  simp only [fireAged]
  repeat' split
  all_goals simp

@[simp] theorem fire_frame (x : Timer) (s : State) :
    (fire x s).clock = s.clock ∧ (fire x s).timing = s.timing ∧ (fire x s).port = s.port
    ∧ (fire x s).pins = s.pins ∧ (fire x s).pending = s.pending := by
  simp only [fire]
  repeat' split
  all_goals simp

@[simp] theorem fireEach_frame (timers : List Timer) (s : State) :
    (fireEach timers s).clock = s.clock ∧ (fireEach timers s).timing = s.timing
    ∧ (fireEach timers s).port = s.port ∧ (fireEach timers s).pending = s.pending := by
  unfold fireEach
  induction timers generalizing s with
  | nil => simp
  | cons x xs ih => simp [List.foldl_cons, ih]

@[simp] theorem leaveThenTake_frame (k : Seat) (s : State) :
    (leaveThenTake k s).clock = s.clock ∧ (leaveThenTake k s).timing = s.timing
    ∧ (leaveThenTake k s).matrices = s.matrices ∧ (leaveThenTake k s).lostKeys = s.lostKeys
    ∧ (leaveThenTake k s).link = s.link ∧ (leaveThenTake k s).port = s.port ∧ (leaveThenTake k s).pins = s.pins
    ∧ (leaveThenTake k s).pending = s.pending := by
  simp [leaveThenTake]

@[simp] theorem offerThenLeave_frame (k : Seat) (s : State) :
    (offerThenLeave k s).clock = s.clock ∧ (offerThenLeave k s).timing = s.timing
    ∧ (offerThenLeave k s).matrices = s.matrices ∧ (offerThenLeave k s).lostKeys = s.lostKeys
    ∧ (offerThenLeave k s).link = s.link ∧ (offerThenLeave k s).port = s.port ∧ (offerThenLeave k s).pins = s.pins
    ∧ (offerThenLeave k s).pending = s.pending := by
  simp [offerThenLeave]

@[simp] theorem tellRoom_frame (room : RoomOrder) (s : State) :
    (tellRoom room s).clock = s.clock ∧ (tellRoom room s).timing = s.timing
    ∧ (tellRoom room s).matrices = s.matrices ∧ (tellRoom room s).lostKeys = s.lostKeys
    ∧ (tellRoom room s).link = s.link ∧ (tellRoom room s).port = s.port ∧ (tellRoom room s).pins = s.pins
    ∧ (tellRoom room s).pending = s.pending := by
  simp only [tellRoom]
  split
  · split
    all_goals simp
  · split
    · simp
    · split
      all_goals simp

/-- Serving a FETCH leaves every block but the lanes and the link as it is (R135, R138). -/
@[simp] theorem serveFetch_frame (s : State) :
    (serveFetch s).2.seats = s.seats ∧ (serveFetch s).2.deck = s.deck ∧ (serveFetch s).2.mirror = s.mirror
    ∧ (serveFetch s).2.port = s.port ∧ (serveFetch s).2.pending = s.pending := by
  simp only [serveFetch, startUtterance, streamItem, endUtterance, streamTo]
  repeat' split
  all_goals simp

@[simp] theorem takeFetch_frame (flags : Byte) (s : State) :
    (takeFetch flags s).port = s.port ∧ (takeFetch flags s).pending = s.pending := by
  simp only [takeFetch, repeatReply, acceptFetch, startAfresh]
  repeat' split
  all_goals simp

@[simp] theorem takeDone_frame (serial outcome : Byte) (s : State) :
    (takeDone serial outcome s).port = s.port ∧ (takeDone serial outcome s).pending = s.pending := by
  simp only [takeDone, protocolFault, staleDone, acceptDone]
  repeat' split
  all_goals simp

@[simp] theorem tick_frame (readA readB : BitVec 64) (before : List Timer) (order : List Seat) (s : State) :
    (tick readA readB before order s).port = s.port ∧ (tick readA readB before order s).pending = s.pending := by
  simp [tick, advanceClock]

/-- The steps that meet a frame end leave the Lesson Port and the queue of commands as they are. -/
@[simp] theorem meetEach_frame (met : List Meeting) (s : State) :
    (meetEach met s).port = s.port ∧ (meetEach met s).pending = s.pending := by
  unfold meetEach
  induction met generalizing s with
  | nil => simp
  | cons x xs ih =>
    rw [List.foldl_cons]
    have hx : (meet x s).port = s.port ∧ (meet x s).pending = s.pending := by
      cases x <;> simp [meet]
    exact ⟨(ih _).1.trans hx.1, (ih _).2.trans hx.2⟩

end Sys2Proof.Machine
end

