-- ==== Sys2Proof/Laws/Flags.lean ====
section
/-! SUPPORT. What `settle` does: the lines and the idle timers follow the state after it, and it leaves a state in which
they follow already. -/
namespace Sys2Proof.Machine
open Sys2Proof Sys2Proof.Safety

theorem queuedHead_iff (l : List SpeechEntry) :
    queuedHead l = true ↔ ∃ e, l.head? = some e ∧ e.state = .queued := by
  cases l <;> simp [queuedHead]

theorem laneOffers_iff (i : LaneId) (s : State) : laneOffers i s = true ↔ Offers s i := by
  cases i <;> simp [laneOffers, Offers, queuedHead_iff]

theorem seatOffers_iff (k : Seat) (s : State) :
    seatOffers k s = true ↔ Offers s (.echo k) ∨ Offers s (.prompt k) := by
  simp [seatOffers, laneOffers_iff]

theorem anyOffers_iff (s : State) :
    (laneOffers .system s || seatOffers .a s || seatOffers .b s) = true ↔ ∃ i, Offers s i := by
  simp only [Bool.or_eq_true, laneOffers_iff, seatOffers_iff]
  constructor
  · rintro ((h | h | h) | h | h) <;> exact ⟨_, h⟩
  · rintro ⟨i, h⟩
    cases i with
    | system => exact .inl (.inl h)
    | prompt k => cases k <;> simp [h]
    | echo k => cases k <;> simp [h]

theorem srqLevel_iff (s : State) :
    srqLevel s = true ↔
      (∃ u e rest, s.link.inFlight = some u ∧ s.lane u.lane = e :: rest ∧ e.state = .streaming)
      ∨ (s.link.inFlight = none ∧ ∃ i, Offers s i) := by
  unfold srqLevel inFlightEntry
  cases h : s.link.inFlight with
  | none => simp [← anyOffers_iff]
  | some u => cases hl : s.lane u.lane <;> simp [hl]

theorem attnLevel_iff (s : State) :
    attnLevel s = true ↔
      (s.reports.fault ≠ none ∧ s.reports.enables.fault = true)
      ∨ ((∃ k, (s.seat k).pendingResult ≠ none) ∧ s.reports.enables.hold = true)
      ∨ (s.reports.trigger.toNat ≤ s.reports.queue.length ∧ s.reports.enables.level = true)
      ∨ (s.reports.agedPending = true ∧ s.reports.enables.aged = true) := by
  have hk : (∃ k, (s.seat k).pendingResult ≠ none)
      ↔ s.seats.a.pendingResult ≠ none ∨ s.seats.b.pendingResult ≠ none := by
    constructor
    · rintro ⟨k, h⟩; cases k
      · exact .inl h
      · exact .inr h
    · rintro (h | h)
      · exact ⟨.a, h⟩
      · exact ⟨.b, h⟩
  rw [hk]
  simp [attnLevel, causesDriving, causesPending, SeatContext.holding, Option.isSome_iff_ne_none, or_assoc]

theorem dchgLevel_iff (s : State) :
    dchgLevel s = true ↔ ∃ k, (s.mirror.live.get k).generation ≠ s.mirror.delivered.get k := by
  constructor
  · intro h
    simp only [dchgLevel, Bool.or_eq_true, decide_eq_true_eq] at h
    rcases h with h | h
    · exact ⟨.a, h⟩
    · exact ⟨.b, h⟩
  · rintro ⟨k, h⟩
    simp only [dchgLevel, Bool.or_eq_true, decide_eq_true_eq]
    cases k
    · exact .inl h
    · exact .inr h

theorem idleTimerRuns_iff (k : Seat) (s : State) :
    idleTimerRuns k s = true ↔
      ((s.seat k).state = .present ∨ (s.seat k).state = .entry) ∧ (s.seat k).settings.idleTimeout ≠ 0
        ∧ ∀ e, e ∈ s.lane (.prompt k) ++ s.lane (.echo k) → e.seat ≠ some k := by
  unfold idleTimerRuns seatEntries
  cases (s.seat k).state <;> simp [List.isEmpty_iff, List.filter_eq_nil_iff, or_imp, forall_and]

/-- LinesFollow as two equations. -/
theorem linesFollow_iff (s : State) :
    LinesFollow s ↔ s.pins = pinLevels s ∧ ∀ k, (s.seat k).idleTimer.isSome = idleTimerRuns k s := by
  constructor
  · rintro ⟨h1, h2, h3, h4⟩
    rw [← attnLevel_iff] at h1
    rw [← srqLevel_iff] at h2
    rw [← dchgLevel_iff] at h3
    refine ⟨?_, fun k => ?_⟩
    · cases hp : s.pins
      rw [hp] at h1 h2 h3
      simp [pinLevels, ← Bool.eq_iff_iff.mpr h1, ← Bool.eq_iff_iff.mpr h2, ← Bool.eq_iff_iff.mpr h3]
    · have := h4 k
      rw [← idleTimerRuns_iff] at this
      rw [Bool.eq_iff_iff, ← this, Option.isSome_iff_ne_none]
  · rintro ⟨h, hk⟩
    refine ⟨?_, ?_, ?_, fun k => ?_⟩
    · rw [h, ← attnLevel_iff]; rfl
    · rw [h, ← srqLevel_iff]; rfl
    · rw [h, ← dchgLevel_iff]; rfl
    · rw [← idleTimerRuns_iff, ← hk k, Option.isSome_iff_ne_none]

/-- The timer after it has been settled: running exactly under its conditions, its time left kept. -/
theorem idleTimerAfter_eq_self {k : Seat} {s : State} (h : (s.seat k).idleTimer.isSome = idleTimerRuns k s) :
    idleTimerAfter k s = (s.seat k).idleTimer := by
  unfold idleTimerAfter
  cases ht : (s.seat k).idleTimer <;> simp [ht] at h <;> simp [← h]

theorem idleTimerAfter_isSome (k : Seat) (s : State) : (idleTimerAfter k s).isSome = idleTimerRuns k s := by
  unfold idleTimerAfter
  cases h : idleTimerRuns k s
  · simp
  · cases ht : (s.seat k).idleTimer <;> simp

theorem settleIdle_eq_self {k : Seat} {s : State} (h : (s.seat k).idleTimer.isSome = idleTimerRuns k s) :
    settleIdle k s = s := by
  unfold settleIdle
  rw [idleTimerAfter_eq_self h]
  cases k <;> rfl

/-- A state in which the lines and timers follow is left as it is. -/
theorem settle_eq_self {s : State} (h : LinesFollow s) : settle s = s := by
  rw [linesFollow_iff] at h
  unfold settle settlePins
  rw [settleIdle_eq_self (h.2 .a), settleIdle_eq_self (h.2 .b), ← h.1]

@[simp] theorem settleIdle_seat_other (k : Seat) (s : State) :
    (settleIdle k s).seat (otherSeat k) = s.seat (otherSeat k) := by
  simp [settleIdle]

/-- The seat after its idle timer has been settled (R64). -/
@[simp] theorem settleIdle_seat_self (k : Seat) (s : State) :
    (settleIdle k s).seat k = { s.seat k with idleTimer := idleTimerAfter k s } := by
  simp [settleIdle]

/-- Everything that a line or a timer's condition reads, but for the timers themselves. -/
theorem idleTimerRuns_congr {k : Seat} {s t : State} (hs : (t.seat k).state = (s.seat k).state)
    (ht : (t.seat k).settings.idleTimeout = (s.seat k).settings.idleTimeout) (hl : t.lanes = s.lanes) :
    idleTimerRuns k t = idleTimerRuns k s := by
  simp [idleTimerRuns, seatEntries, State.lane, hs, ht, hl]

theorem idleTimerRuns_settleIdle (k j : Seat) (s : State) : idleTimerRuns j (settleIdle k s) = idleTimerRuns j s := by
  apply idleTimerRuns_congr <;> cases k <;> cases j <;> simp [settleIdle, State.seat, State.setSeat]

theorem pinLevels_settleIdle (k : Seat) (s : State) : pinLevels (settleIdle k s) = pinLevels s := by
  cases k <;> rfl

theorem settleIdle_isSome (k : Seat) (s : State) :
    ((settleIdle k s).seat k).idleTimer.isSome = idleTimerRuns k s := by
  rw [settleIdle_seat_self]; exact idleTimerAfter_isSome k s

/-- After `settle` the lines and the timers follow. -/
theorem linesFollow_settle (s : State) : LinesFollow (settle s) := by
  rw [linesFollow_iff]
  have hp : pinLevels (settle s) = pinLevels s := by
    show pinLevels { settleIdle .b (settleIdle .a s) with pins := _ } = _
    rw [← pinLevels_settleIdle .a s, ← pinLevels_settleIdle .b (settleIdle .a s)]
    rfl
  refine ⟨?_, fun k => ?_⟩
  · rw [hp]
    show pinLevels (settleIdle .b (settleIdle .a s)) = _
    rw [pinLevels_settleIdle, pinLevels_settleIdle]
  · have hr : ∀ j, idleTimerRuns j (settle s) = idleTimerRuns j s := fun j => by
      rw [← idleTimerRuns_settleIdle .a j s, ← idleTimerRuns_settleIdle .b j (settleIdle .a s)]
      exact idleTimerRuns_congr rfl rfl rfl
    rw [hr k]
    cases k
    · have h1 : (settle s).seat .a = (settleIdle .a s).seat .a := settleIdle_seat_other .b (settleIdle .a s)
      rw [h1, settleIdle_isSome]
    · have h1 : (settle s).seat .b = (settleIdle .b (settleIdle .a s)).seat .b := rfl
      rw [h1, settleIdle_isSome, idleTimerRuns_settleIdle]

/-- `settle` in one piece: both timers as their conditions say, then the lines. -/
theorem settle_eq (s : State) :
    settle s =
      { s with
        seats :=
          { a := { s.seats.a with idleTimer := idleTimerAfter .a s },
            b := { s.seats.b with idleTimer := idleTimerAfter .b s } },
        pins := pinLevels s } := by
  have hb : idleTimerAfter .b (settleIdle .a s) = idleTimerAfter .b s := by
    unfold idleTimerAfter
    rw [idleTimerRuns_settleIdle]
    rfl
  have hp : pinLevels (settleIdle .b (settleIdle .a s)) = pinLevels s := by
    rw [pinLevels_settleIdle, pinLevels_settleIdle]
  simp only [settle, settlePins, hp]
  simp only [settleIdle, State.setSeat, State.seat, Pair.set, Pair.get]
  rw [← hb]
  rfl

/-- `settle` where both timers follow already: the lines alone. -/
theorem settle_eq_pins {s : State} (h : ∀ k, (s.seat k).idleTimer.isSome = idleTimerRuns k s) :
    settle s = { s with pins := pinLevels s } := by
  unfold settle settlePins
  rw [settleIdle_eq_self (h .a), settleIdle_eq_self (h .b)]

/-- A timer whose seat and lanes have not changed is left as it is. -/
theorem idleTimerAfter_keep {j : Seat} {s x : State} (h : LinesFollow s) (hs : x.seat j = s.seat j)
    (hp : x.lane (.prompt j) = s.lane (.prompt j)) (he : x.lane (.echo j) = s.lane (.echo j)) :
    idleTimerAfter j x = (s.seat j).idleTimer := by
  have hr : idleTimerRuns j x = idleTimerRuns j s := by simp only [idleTimerRuns, seatEntries, hs, hp, he]
  have := idleTimerAfter_eq_self (((linesFollow_iff s).mp h).2 j)
  unfold idleTimerAfter at this ⊢
  rw [hr, hs]
  exact this

/-- `settle` after one seat and its lanes have changed: that seat's timer and the lines alone. -/
theorem settle_one {k : Seat} {s x : State} {c : SeatContext} (h : LinesFollow s) (hs : x.seats = s.seats.set k c)
    (hp : x.lane (.prompt (otherSeat k)) = s.lane (.prompt (otherSeat k)))
    (he : x.lane (.echo (otherSeat k)) = s.lane (.echo (otherSeat k))) :
    settle x = { x with seats := s.seats.set k { c with idleTimer := idleTimerAfter k x }, pins := pinLevels x } := by
  have ho : x.seat (otherSeat k) = s.seat (otherSeat k) := by simp [State.seat, hs]
  have hk := idleTimerAfter_keep h ho hp he
  rw [settle_eq]
  cases k
  · simp only [otherSeat] at hk
    simp only [hs, hk, Pair.set]
    rfl
  · simp only [otherSeat] at hk
    simp only [hs, hk, Pair.set]
    rfl

/-- `settle` after no seat and no lane has changed: the lines alone. -/
theorem settle_none {s x : State} (h : LinesFollow s) (hs : x.seats = s.seats) (hl : x.lanes = s.lanes) :
    settle x = { x with pins := pinLevels x } := by
  refine settle_eq_pins fun k => ?_
  have := ((linesFollow_iff s).mp h).2 k
  simp only [State.seat, idleTimerRuns, seatEntries, State.lane, hs, hl] at this ⊢
  exact this

/-- Whether the lines follow depends on the seats, lanes, link, reports, mirror and pins alone. -/
theorem linesFollow_congr {s t : State} (h : LinesFollow s) (hseats : t.seats = s.seats) (hlanes : t.lanes = s.lanes)
    (hlink : t.link.inFlight = s.link.inFlight) (hreports : t.reports = s.reports) (hmirror : t.mirror = s.mirror)
    (hpins : t.pins = s.pins) : LinesFollow t := by
  obtain ⟨h1, h2, h3, h4⟩ := h
  refine ⟨?_, ?_, ?_, fun k => ?_⟩
  · simpa [hpins, hreports, State.seat, hseats] using h1
  · have hO : ∀ i, Offers t i ↔ Offers s i := fun i => by
      cases i <;> simp [Offers, State.lane, State.seat, hlanes, hseats]
    simpa [hpins, hlink, State.lane, hlanes, hO] using h2
  · simpa [hpins, hmirror] using h3
  · simpa [State.seat, State.lane, hlanes, hseats] using h4 k

/-- The steps that meet a frame end leave the lines following the state. -/
theorem linesFollow_meetEach (met : List Meeting) {s : State} (h : LinesFollow s) : LinesFollow (meetEach met s) := by
  unfold meetEach
  induction met generalizing s with
  | nil => exact h
  | cons x xs ih =>
    refine ih ?_
    cases x <;> exact linesFollow_settle _

end Sys2Proof.Machine
end

