-- ==== Sys2Proof/Laws/Mirror.lean ====
section
/-! SUPPORT. One image write: what it leaves, what it writes, and that the image shows its seat after it. -/
namespace Sys2Proof.Machine
open Sys2Proof Sys2Proof.Safety

/-- The live image of a seat shows the seat (R73). -/
def Shows (k : Seat) (s : State) : Prop :=
  (s.mirror.live.get k).state = shownState (s.seat k).state
    ∧ (s.mirror.live.get k).targetLength = (s.target k).length
    ∧ (s.mirror.live.get k).tries = (s.seat k).tries
    ∧ (s.mirror.live.get k).symbols = (s.seat k).line

theorem imagesFollow_iff (s : State) : ImagesFollow s ↔ ∀ k, Shows k s := Iff.rfl

/-- An image that shows its seat is the seat's image at its own verdict and generation. -/
theorem seatImage_of_shows {k : Seat} {s : State} (h : Shows k s) :
    seatImage k (mirrorVerdict k s) (s.mirror.live.get k).generation s = s.mirror.live.get k := by
  obtain ⟨h1, h2, h3, h4⟩ := h
  simp only [seatImage, mirrorVerdict, ← h1, ← h2, ← h3, ← h4]

/-- A write that changes a field moves the generation by 1 (R164). -/
theorem writeImage_of_ne {k : Seat} {v : Verdict} {s : State}
    (h : seatImage k v (s.mirror.live.get k).generation s ≠ s.mirror.live.get k) :
    writeImage k v s =
      { s with
        mirror :=
          { s.mirror with
            live :=
              s.mirror.live.set k
                { generation := (s.mirror.live.get k).generation + 1, state := shownState (s.seat k).state,
                  targetLength := (s.target k).length, verdict := v, tries := (s.seat k).tries,
                  symbols := (s.seat k).line } } } := by
  simp only [writeImage, if_neg h]
  rfl

/-- A write that changes nothing leaves the mirror (R165). -/
theorem writeImage_of_eq {k : Seat} {v : Verdict} {s : State}
    (h : seatImage k v (s.mirror.live.get k).generation s = s.mirror.live.get k) : writeImage k v s = s := by
  simp [writeImage, h]

/-- After a write the image shows the seat. -/
theorem shows_writeImage (k : Seat) (v : Verdict) (s : State) : Shows k (writeImage k v s) := by
  by_cases h : seatImage k v (s.mirror.live.get k).generation s = s.mirror.live.get k
  · rw [writeImage_of_eq h]
    exact ⟨by rw [← h]; rfl, by rw [← h]; rfl, by rw [← h]; rfl, by rw [← h]; rfl⟩
  · rw [writeImage_of_ne h]
    simp [Shows, State.seat, State.target, State.word]

/-- A write leaves the other seat's image. -/
theorem writeImage_other (k : Seat) (v : Verdict) (s : State) :
    (writeImage k v s).mirror.live.get (otherSeat k) = s.mirror.live.get (otherSeat k) := by
  unfold writeImage; simp

/-- Whether an image shows its seat depends on the seat's shown fields, the letters of its word and the image. -/
theorem shows_congr {k : Seat} {s t : State} (h : Shows k s) (hm : t.mirror.live.get k = s.mirror.live.get k)
    (h1 : shownState (t.seat k).state = shownState (s.seat k).state) (h2 : (t.seat k).tries = (s.seat k).tries)
    (h3 : (t.seat k).line = (s.seat k).line) (h4 : (t.target k).length = (s.target k).length) : Shows k t := by
  unfold Shows at h ⊢
  rw [hm, h1, h2, h3, h4]
  exact h

end Sys2Proof.Machine
end

