-- ==== Sys2Proof/Laws/Moves.lean ====
section
/-! SUPPORT. What every step of the part is made of, said once: a property that a few primitive moves keep is kept by
every operation, and so by every step. The properties it serves look at the queues, the lanes, phrase memory, the lines
and the words. -/
namespace Sys2Proof.Machine
open Sys2Proof Sys2Proof.Safety

/-- Two states with the same queues, lanes, phrase memory, lines and words. -/
structure SameStores (s t : State) : Prop where
  keyQueues : t.keyQueues = s.keyQueues
  lanes : ∀ i, t.lane i = s.lane i
  nextEntryId : t.nextEntryId = s.nextEntryId
  phrases : t.phrases = s.phrases
  reports : t.reports.queue = s.reports.queue
  lines : ∀ k, (t.seat k).line = (s.seat k).line
  letters : ∀ w, (t.word w).letters = (s.word w).letters

theorem SameStores.of {s t : State} (hk : t.keyQueues = s.keyQueues) (hl : t.lanes = s.lanes)
    (hn : t.nextEntryId = s.nextEntryId) (hp : t.phrases = s.phrases) (hr : t.reports.queue = s.reports.queue)
    (hs : t.seats = s.seats) (hd : t.deck = s.deck) : SameStores s t where
  keyQueues := hk
  lanes := fun _ => by rw [State.lane, State.lane, hl]
  nextEntryId := hn
  phrases := hp
  reports := hr
  lines := fun _ => by rw [State.seat, State.seat, hs]
  letters := fun _ => by rw [State.word, State.word, hd]

/-- Another seat context with the same line. -/
theorem SameStores.seat (s : State) (k : Seat) (c : SeatContext) (hc : c.line = (s.seat k).line) :
    SameStores s (s.setSeat k c) where
  keyQueues := rfl
  lanes := fun _ => rfl
  nextEntryId := rfl
  phrases := rfl
  reports := rfl
  lines := fun j => by
    simp only [State.seat, State.setSeat, Pair.get_set]
    split
    · subst j; exact hc
    · rfl
  letters := fun _ => rfl

/-- A property that every primitive move keeps. -/
structure Kept (P : State → Prop) : Prop where
  same : ∀ {s t}, SameStores s t → P s → P t
  reset : ∀ s, P (afterReset s)
  keyLess : ∀ {s} k q, q.length ≤ (s.keyQueue k).length → P s → P (s.setKeyQueue k q)
  keyMore : ∀ {s} k e, (s.keyQueue k).length < 16 → P s → P (s.setKeyQueue k (s.keyQueue k ++ [e]))
  line : ∀ {s} k c, (c.line.length ≤ 20 ∨ c.line.length ≤ (s.seat k).line.length
      ∨ c.line.length ≤ (s.target k).length) → P s → P (s.setSeat k c)
  letters : ∀ {s} (r : WordRequest), r.letters.length ≤ 16 → P s → P (storeWord r s)
  record : ∀ {s} body, s.reports.queue.length < 16 → P s → P (takeRecord body s)
  recordLess : ∀ {s} n, P s → P { s with reports := { s.reports with queue := s.reports.queue.drop n } }
  prompt : ∀ {s t} k h origin tag, (s.lane (.prompt k)).length < 4 → takeReference h s = some t → P s →
    P (joinLane (.prompt k) (.phrase h) origin (some k) none tag t)
  system : ∀ {s t} h origin channel tag, (s.lane .system).length < 4 → takeReference h s = some t → P s →
    P (joinLane .system (.phrase h) origin none channel tag t)
  echo : ∀ {s} k content, (∀ h, content ≠ .phrase h) → (s.lane (.echo k)).length < 8 → P s →
    P (joinLane (.echo k) content .drillEcho (some k) none 0 s)
  fullEcho : ∀ {s} k content, (∀ h, content ≠ .phrase h) → 8 ≤ (s.lane (.echo k)).length → P s →
    P (joinLane (.echo k) content .drillEcho (some k) none 0
      (s.setLane (.echo k) (dropOldestQueued (s.lane (.echo k)))))
  leave : ∀ {s} i e, e ∈ s.lane i → P s → P (removeEntry i e s)
  head : ∀ {s} i e e' rest, s.lane i = e :: rest → e'.id = e.id → e'.content = e.content →
    (e'.seat = e.seat ∨ e'.seat = none) → P s → P (s.setLane i (e' :: rest))
  store : ∀ {s} h kind items, (s.handle h).state = .empty → kind ≠ .empty →
    pagesNeeded items.length ≤ s.phrases.free.length → P s → P (storePhrase h kind items s)
  free : ∀ {s} h, (s.handle h).state ≠ .empty → P s → P (freePhrase h s)

namespace Kept
variable {P : State → Prop} (hP : Kept P)
include hP

/-- Nothing that the property looks at is changed. -/
theorem unchanged {s t : State} (h : P s) (hk : t.keyQueues = s.keyQueues) (hl : t.lanes = s.lanes)
    (hn : t.nextEntryId = s.nextEntryId) (hp : t.phrases = s.phrases) (hr : t.reports.queue = s.reports.queue)
    (hs : t.seats = s.seats) (hd : t.deck = s.deck) : P t := hP.same (.of hk hl hn hp hr hs hd) h

/-- A seat context is changed, but for its line. -/
theorem seat {s : State} (k : Seat) (f : SeatContext → SeatContext) (hf : (f (s.seat k)).line = (s.seat k).line)
    (h : P s) : P (s.mapSeat k f) := hP.same (.seat s k _ hf) h

/-! ## Reports, images -/

theorem fault (kind : FaultKind) (detail : Byte) {s : State} (h : P s) : P (raiseFault kind detail s) :=
  hP.unchanged h (by simp) (by simp) (by simp) (by simp) rfl (by simp) (by simp)

theorem offer (body : Report) {s : State} (h : P s) : P (offerRecord body s) := by
  unfold offerRecord
  split
  · rename_i hr
    exact hP.record body (of_decide_eq_true hr) h
  · exact hP.fault _ _ (hP.unchanged h rfl rfl rfl rfl rfl rfl rfl)

theorem event (k : Seat) (event : SeatEvent) {s : State} (h : P s) : P (postEvent k event s) := hP.offer _ h

theorem image (k : Seat) (v : Verdict) {s : State} (h : P s) : P (writeImage k v s) :=
  hP.unchanged h (by simp) (by simp) (by simp) (by simp) (by simp) (by simp) (by simp)

theorem imageKept (k : Seat) {s : State} (h : P s) : P (writeImageKeepingVerdict k s) := hP.image _ _ h

theorem pins {s : State} (h : P s) : P (settlePins s) := hP.unchanged h rfl rfl rfl rfl rfl rfl rfl

theorem settled {s : State} (h : P s) : P (settle s) :=
  hP.pins (hP.same (.seat _ .b _ rfl) (hP.same (.seat _ .a _ rfl) h))

/-! ## Speech entries -/

theorem drillPhrase {k : Seat} {origin : SpeechOrigin} {g : Option Handle} {s t : State} {id : Nat}
    (e : queueDrillPhrase k origin g s = some (id, t)) (h : P s) : P t := by
  obtain ⟨x, -, hx, hl, -, rfl⟩ := queueDrillPhrase_some e
  exact hP.prompt k x origin 0 hl (by simp only [takeReference, hx]) h

theorem drillOrSkip (k : Seat) (origin : SpeechOrigin) (g : Option Handle) {s : State} (h : P s) :
    P (queueOrSkip k origin g s) := by
  unfold queueOrSkip
  split
  · rename_i e; exact hP.drillPhrase e h
  · exact h

theorem echoes (k : Seat) (content : Content) (hc : ∀ g, content ≠ .phrase g) {s : State} (h : P s) :
    P (queueEcho k content s) := by
  unfold queueEcho
  by_cases hl : (s.lane (.echo k)).length < Config.echoLaneSize
  · simp only [if_pos hl]
    exact hP.echo k content hc hl h
  · simp only [if_neg hl]
    have := hP.fullEcho k content hc (Nat.le_of_not_lt hl) h
    refine hP.same ?_ this
    constructor
    · rfl
    · intro i; cases i <;> cases k <;> rfl
    · rfl
    · rfl
    · rfl
    · intro; rfl
    · intro; rfl

theorem bump (k : Seat) {s : State} (h : P s) : P (queueBump k s) := hP.echoes k _ (by simp) h

theorem buzz (k : Seat) {s : State} (h : P s) : P (queueBuzz k s) := hP.echoes k _ (by simp) h

theorem left (i : LaneId) (o : SpeechOutcome) (e : SpeechEntry) {s : State} (hm : e ∈ s.lane i) (h : P s) :
    P (leaveLane i o e s) := by
  unfold leaveLane
  split
  · exact hP.leave i e hm h
  · exact hP.offer _ (hP.leave i e hm h)

/-- Several entries of a lane leave it in their order. -/
theorem leftEach (i : LaneId) (o : SpeechOutcome) (told : SpeechEntry → State → State)
    (ht : ∀ e s, P s → P (told e s)) (hs : ∀ e (s : State), (s.lane i).Sublist ((told e s).lane i))
    (es : List SpeechEntry) {s : State} (hm : es.Sublist (s.lane i)) (h : P s) : P (leaveEach i o told es s) := by
  unfold leaveEach
  induction es generalizing s with
  | nil => exact h
  | cons e rest ih =>
    refine ih ?_ (ht _ _ (hP.left i o e (hm.subset (List.mem_cons_self ..)) h))
    refine List.Sublist.trans ?_ (hs _ _)
    have hl : (leaveLane i o e s).lane i = (s.lane i).eraseP fun x => decide (x.id = e.id) := by
      unfold leaveLane
      split
      · simp [removeEntry]
      · simp only [State.lane, offerRecord_frame]
        exact State.lane_setLane_self ..
    rw [hl]
    generalize s.lane i = l at hm
    clear ih hl h hs ht
    induction l with
    | nil => cases hm
    | cons x xs ih =>
      by_cases hx : x.id = e.id
      · simp only [List.eraseP_cons, hx, decide_true, cond_true]
        cases hm with
        | cons _ h => exact (List.sublist_cons_self ..).trans h
        | cons_cons _ h => exact h
      · simp only [List.eraseP_cons, hx, decide_false, cond_false]
        cases hm with
        | cons _ h => exact .cons _ (ih h)
        | cons_cons _ h => exact absurd rfl hx

theorem inFlightHead {s : State} {e : SpeechEntry} (he : inFlightEntry s = some e) (e' : SpeechEntry)
    (h1 : e'.id = e.id) (h2 : e'.content = e.content) (h3 : e'.seat = e.seat ∨ e'.seat = none) (h : P s) :
    P (setInFlightEntry e' s) := by
  unfold inFlightEntry at he
  unfold setInFlightEntry
  cases hu : s.link.inFlight with
  | none => exact h
  | some u =>
    simp only [hu] at he
    cases hl : s.lane u.lane with
    | nil => simp [hl] at he
    | cons x rest =>
      simp only [hl, List.head?_cons, Option.some.injEq] at he
      subst he
      simp only [hl, List.tail_cons]
      exact hP.head _ _ _ _ hl h1 h2 h3 h

theorem cutPending (which : SpeechEntry → Bool) {s : State} (h : P s) : P (markCutPending which s) := by
  unfold markCutPending
  split
  · rename_i e he
    split
    · exact hP.inFlightHead he _ rfl rfl (.inl rfl) h
    · exact h
  · exact h

theorem orphan (k : Seat) {s : State} (h : P s) : P (orphanInFlight k s) := by
  unfold orphanInFlight
  split
  · rename_i e he
    split
    · exact hP.inFlightHead he _ rfl rfl (.inr rfl) h
    · exact h
  · exact h

/-! ## The drill cycle -/

/-- A seat context with a line that is short enough. -/
theorem newLine {s : State} (k : Seat) (f : SeatContext → SeatContext)
    (hf : (f (s.seat k)).line.length ≤ 20 ∨ (f (s.seat k)).line.length ≤ (s.seat k).line.length
      ∨ (f (s.seat k)).line.length ≤ (s.target k).length) (h : P s) : P (s.mapSeat k f) := hP.line k _ hf h

theorem clearForWord (k : Seat) (w : WordIndex) {s : State} (h : P s) : P (clearForWord k w s) := by
  have h1 := hP.newLine k (fun c =>
    { c with currentWord := some w, line := [], tries := 1, hints := 0, replays := 0, overtyped := 0, nudges := 0,
             entryMs := 0, presentationPrompt := none }) (.inl (by simp)) h
  simp only [Machine.clearForWord]
  split
  · exact hP.keyLess k [] (by simp) h1
  · exact h1

theorem present (k : Seat) (w : WordIndex) {s : State} (h : P s) : P (present k w s) := by
  unfold Machine.present
  split
  · rename_i e
    exact hP.image _ _ (hP.seat k _ rfl (hP.drillPhrase e (hP.clearForWord k w h)))
  · exact hP.event _ _ (hP.image _ _ (hP.seat k _ rfl (hP.clearForWord k w h)))

theorem toIdle (k : Seat) {s : State} (h : P s) : P (toIdle k s) :=
  hP.imageKept k (hP.newLine k _ (.inl (by simp)) h)

theorem presentPick (k : Seat) {s : State} (h : P s) : P (presentPick k s) := by
  unfold Machine.presentPick
  split
  · exact hP.present k _ h
  · exact hP.event _ _ (hP.toIdle k h)

theorem recordPosted (p : PendingResult) {s : State} (h : P s) : P (recordPosted p s) := by
  refine hP.same ⟨by simp, fun i => by simp [State.lane], by simp, by simp, by simp, fun k => by simp [State.seat], fun w => ?_⟩ h
  simp only [Machine.recordPosted, State.setProgress, State.word_setWord]
  split
  · subst w; rfl
  · rfl

theorem tryPost (k : Seat) {s : State} (h : P s) : P (tryPost k s) := by
  unfold Machine.tryPost
  split
  · exact h
  · split
    · rename_i hr
      exact hP.seat k _ rfl (hP.recordPosted _ (hP.record _ (of_decide_eq_true hr) h))
    · exact h

theorem leaveReviewIfDone (k : Seat) {s : State} (h : P s) : P (leaveReviewIfDone k s) := by
  simp only [Machine.leaveReviewIfDone]
  split
  · split
    · exact hP.presentPick k h
    · exact hP.toIdle k h
  · exact h

theorem carryOutRetry (k : Seat) {s : State} (h : P s) : P (carryOutRetry k s) :=
  hP.imageKept k (hP.newLine k _ (.inl (by simp)) h)

theorem retryIfDone (k : Seat) {s : State} (h : P s) : P (retryIfDone k s) := by
  simp only [Machine.retryIfDone]
  split
  · exact hP.carryOutRetry k h
  · exact h

theorem promptDone (k : Seat) {s : State} (h : P s) : P (promptDone k s) := by
  unfold Machine.promptDone
  split
  · exact hP.imageKept k (hP.seat k _ rfl h)
  all_goals exact hP.seat k _ rfl h

theorem feedbackDone (k : Seat) {s : State} (h : P s) : P (feedbackDone k s) :=
  hP.leaveReviewIfDone k (hP.retryIfDone k (hP.seat k _ rfl h))

theorem tellSeat (e : SpeechEntry) {s : State} (h : P s) : P (tellSeat e s) := by
  unfold Machine.tellSeat
  split
  · exact h
  · split
    · exact hP.promptDone _ h
    · split
      · exact hP.feedbackDone _ h
      · exact h

end Kept

/-! ## Telling a seat only adds to the lanes -/

theorem joinLane_sublist (i j : LaneId) (content : Content) (origin : SpeechOrigin) (seat : Option Seat)
    (channel : Option Channel) (tag : Byte) (s : State) :
    (s.lane j).Sublist ((joinLane i content origin seat channel tag s).lane j) := by
  show (s.lane j).Sublist ((s.setLane i _).lane j)
  rw [State.lane_setLane]
  split
  · subst j; exact List.sublist_append_left ..
  · exact List.Sublist.refl _

theorem present_sublist (k : Seat) (w : WordIndex) (j : LaneId) (s : State) :
    (s.lane j).Sublist ((present k w s).lane j) := by
  unfold present
  split
  · rename_i e
    obtain ⟨g, -, -, -, -, rfl⟩ := queueDrillPhrase_some e
    have : ∀ t : State, (writeImage k .none t).lane j = t.lane j := fun t => by simp [State.lane]
    rw [this]
    refine List.Sublist.trans ?_ (joinLane_sublist _ _ _ _ _ _ _ _)
    simp only [State.lane, State.setHandle_lanes, clearForWord_frame]
    exact List.Sublist.refl _
  · simp only [State.lane, postEvent_frame, writeImage_frame, clearForWord_frame, State.mapSeat_lanes]
    exact List.Sublist.refl _

theorem leaveReviewIfDone_sublist (k : Seat) (j : LaneId) (s : State) :
    (s.lane j).Sublist ((leaveReviewIfDone k s).lane j) := by
  simp only [leaveReviewIfDone]
  split
  · split
    · unfold presentPick
      split
      · exact present_sublist ..
      · simp only [State.lane, postEvent_frame, toIdle_frame]
        exact List.Sublist.refl _
    · simp only [State.lane, toIdle_frame]
      exact List.Sublist.refl _
  · exact List.Sublist.refl _

theorem tellSeat_sublist (e : SpeechEntry) (j : LaneId) (s : State) : (s.lane j).Sublist ((tellSeat e s).lane j) := by
  unfold tellSeat
  split
  · exact List.Sublist.refl _
  · split
    · simp only [State.lane, promptDone_frame]
      exact List.Sublist.refl _
    · split
      · unfold feedbackDone
        refine List.Sublist.trans ?_ (leaveReviewIfDone_sublist _ _ _)
        simp only [State.lane, retryIfDone_frame, State.mapSeat_lanes]
        exact List.Sublist.refl _
      · exact List.Sublist.refl _

namespace Kept
variable {P : State → Prop} (hP : Kept P)
include hP

/-- Queued entries of a lane that are asked for leave it, and their seats are told. -/
theorem leftAndTold (i : LaneId) (o : SpeechOutcome) (which : SpeechEntry → Bool) {s : State} (h : P s) :
    P (leaveEach i o Machine.tellSeat (queuedIn i which s) s) :=
  hP.leftEach i o _ (fun e _ => hP.tellSeat e) (fun e s => tellSeat_sublist e i s) _ List.filter_sublist h

theorem bargeIn (k : Seat) {s : State} (h : P s) : P (bargeIn k s) := hP.cutPending _ (hP.leftAndTold _ _ _ h)

theorem bargeInIfOn (k : Seat) {s : State} (h : P s) : P (bargeInIfOn k s) := by
  unfold Machine.bargeInIfOn
  split
  · exact hP.bargeIn k h
  · exact h

/-! ## Keys of a seat -/

theorem takeLetter (k : Seat) (letter : Byte) {s : State} (h : P s) : P (takeLetter k letter s) := by
  simp only [Machine.takeLetter]
  have h := hP.bargeInIfOn k h
  split
  · rename_i hl
    have h : ∀ m, P ((Machine.bargeInIfOn k s).mapSeat k fun c =>
        { c with line := c.line ++ [{ letter := letter, origin := .typed, mark := m }], state := .entry }) := fun m =>
      hP.newLine k _ (.inl (by simp only [List.length_append, List.length_singleton]; exact hl)) h
    refine hP.imageKept k ?_
    generalize typedMark _ _ _ _ = m
    split
    · exact hP.buzz k (h m)
    · split
      · exact hP.echoes k _ (by simp) (h m)
      · exact h m
  · exact hP.imageKept k (hP.bump k (hP.seat k _ rfl h))

theorem takeErase (k : Seat) {s : State} (h : P s) : P (takeErase k s) := by
  unfold Machine.takeErase
  split
  · exact hP.bump k h
  · exact hP.imageKept k (hP.newLine k _ (.inr (.inl (by simp))) h)

theorem takeHint (k : Seat) {s : State} (h : P s) : P (takeHint k s) := by
  simp only [Machine.takeHint]
  have h := hP.bargeInIfOn k h
  refine hP.imageKept k ?_
  split
  · rename_i letter rest hd
    have hlen : correctPrefix ((Machine.bargeInIfOn k s).attempt k) ((Machine.bargeInIfOn k s).target k)
        < ((Machine.bargeInIfOn k s).target k).length := by
      apply Nat.lt_of_not_le
      intro hle
      rw [List.drop_eq_nil_of_le hle] at hd
      cases hd
    have h := hP.newLine k (fun c =>
      { c with
        line := c.line.take (correctPrefix ((Machine.bargeInIfOn k s).attempt k) ((Machine.bargeInIfOn k s).target k))
          ++ [{ letter := letter, origin := .hinted, mark := .right }],
        hints := saturatingSucc c.hints, state := .entry })
        (.inr (.inr (by simp only [List.length_append, List.length_take, List.length_singleton]; omega))) h
    split
    · exact hP.echoes k _ (by simp) h
    · exact h
  · exact hP.bump k (hP.newLine k _ (.inr (.inl (by simp only [List.length_take]; omega))) h)

theorem takeSayAgain (k : Seat) {s : State} (h : P s) : P (takeSayAgain k s) := by
  have hr : ∀ r, P (replayWord k r s).2 := by
    intro r
    unfold replayWord
    split
    · rename_i e; exact hP.drillOrSkip _ _ _ (hP.drillPhrase e h)
    · split
      · rename_i e; exact hP.drillPhrase e h
      · exact h
  unfold Machine.takeSayAgain
  split
  · exact h
  · split
    · exact h
    · rename_i w _
      have hr := hr (s.word w)
      split
      · rename_i e; rw [e] at hr; exact hP.seat k _ rfl hr
      · rename_i e; rw [e] at hr; exact hP.bump k hr

theorem takeMash (k : Seat) {s : State} (h : P s) : P (takeMash k s) := hP.event _ _ (hP.drillOrSkip _ _ _ h)

theorem enterRetry (k : Seat) (v : Verdict) {s : State} (h : P s) : P (enterRetry k v s) := by
  simp only [Machine.enterRetry]
  split
  · rename_i e; exact hP.image _ _ (hP.seat k _ rfl (hP.drillPhrase e h))
  · exact hP.carryOutRetry k (hP.image _ _ (hP.seat k _ rfl h))

theorem enterFinal (k : Seat) (w : WordIndex) (j : Judgement) {s : State} (h : P s) : P (enterFinal k w j s) := by
  simp only [Machine.enterFinal]
  refine hP.leaveReviewIfDone k (hP.tryPost k ?_)
  split
  · rename_i e; exact hP.image _ _ (hP.seat k _ rfl (hP.drillPhrase e h))
  · exact hP.image _ _ (hP.seat k _ rfl h)

theorem takeEnter (k : Seat) {s : State} (h : P s) : P (takeEnter k s) := by
  simp only [Machine.takeEnter]
  split
  · exact hP.bump k h
  · split
    · exact h
    · have h := hP.newLine k (fun c =>
        { c with
          line := applyMarks c.line (judge (s.attempt k) (s.target k) (s.seat k).hints (s.seat k).tries).marks,
          idleTimer := none }) (.inr (.inl (by simp only [applyMarks, List.length_zipWith]; omega))) h
      split
      · exact hP.enterFinal k _ _ h
      · exact hP.enterRetry k _ h

theorem takeKey (k : Seat) (e : KeyEntry) {s : State} (h : P s) : P (takeKey k e s) := by
  simp only [Machine.takeKey]
  have h := hP.seat k (fun c => { c with nudges := 0, idleTimer := c.idleTimer.map fun _ => c.idleMs }) rfl h
  split
  · exact hP.takeMash k h
  split
  · exact hP.takeLetter k _ h
  split
  · exact hP.takeErase k h
  split
  · exact hP.takeHint k h
  split
  · exact hP.takeSayAgain k h
  split
  · exact hP.takeEnter k h
  · exact h

theorem takeKeysUpTo (n : Nat) (k : Seat) {s : State} (h : P s) : P (takeKeysUpTo n k s) := by
  induction n generalizing s with
  | zero => exact h
  | succ n ih =>
    have hq : ∀ e rest, s.keyQueue k = e :: rest → P (s.setKeyQueue k rest) := fun e rest hq =>
      hP.keyLess k rest (by rw [hq]; simp) h
    unfold Machine.takeKeysUpTo
    split
    · rename_i hk _; exact ih (hP.takeKey k _ (hq _ _ hk))
    · rename_i hk _; exact ih (hP.takeKey k _ (hq _ _ hk))
    · rename_i hk _; exact ih (hq _ _ hk)
    · exact h

theorem takeKeys (k : Seat) {s : State} (h : P s) : P (takeKeys k s) := hP.takeKeysUpTo _ k h

/-! ## Pausing, starting, stopping -/

theorem pause (k : Seat) (r : PauseReason) {s : State} (h : P s) : P (pause k r s) := by
  unfold Machine.pause
  split
  · exact hP.imageKept k (hP.seat k _ rfl h)
  · exact h

theorem resume (k : Seat) {s : State} (h : P s) : P (resume k s) := by
  unfold Machine.resume
  split
  · exact hP.takeKeys k (hP.leaveReviewIfDone k (hP.retryIfDone k (hP.imageKept k (hP.seat k _ rfl h))))
  all_goals exact h

theorem pauseKey (k : Seat) {s : State} (h : P s) : P (pauseKey k s) := by
  unfold Machine.pauseKey
  split
  all_goals first | exact h | exact hP.event _ _ (hP.pause k _ h) | exact hP.event _ _ (hP.resume k h)

theorem pauseForLesson (k : Seat) {s : State} (h : P s) : P (pauseForLesson k s) := by
  unfold Machine.pauseForLesson
  split
  · exact hP.seat k _ rfl h
  all_goals exact hP.pause k _ h

theorem startSeat (k : Seat) {s : State} (h : P s) : P (startSeat k s) := hP.imageKept k (hP.seat k _ rfl h)

theorem abandon (k : Seat) {s : State} (h : P s) : P (abandon k s) :=
  hP.cutPending _ (hP.leftAndTold _ _ _ (hP.leftAndTold _ _ _ (hP.seat k _ rfl h)))

theorem nextWord (k : Seat) (i : Option WordIndex) {s : State} (h : P s) : P (nextWord k i s) := by
  unfold Machine.nextWord
  split
  all_goals first
    | exact hP.takeKeys k (hP.present k _ (hP.abandon k h))
    | exact hP.takeKeys k (hP.presentPick k (hP.abandon k h))
    | exact hP.takeKeys k (hP.present k _ h)
    | (split
       · exact hP.takeKeys k (hP.present k _ h)
       · exact hP.event _ _ h)

theorem stopSeat (k : Seat) {s : State} (h : P s) : P (stopSeat k s) :=
  hP.orphan k (hP.cutPending _ (hP.leftAndTold _ _ _ (hP.leftAndTold _ _ _
    (hP.image _ _ (hP.keyLess k [] (by simp) (hP.newLine k _ (.inl (by simp [SeatContext.reset])) h))))))

end Kept

end Sys2Proof.Machine
end

