-- ==== Sys2Proof/Laws/Images.lean ====
section
/-! SUPPORT. Every operation that changes what an image shows ends in an image write, so the images show their seats after
it (R73, R165). -/
namespace Sys2Proof.Machine
open Sys2Proof Sys2Proof.Safety

/-! ## What leaves the images -/

theorem images_unchanged {s t : State} (h : ImagesFollow s) (hs : t.seats = s.seats) (hd : t.deck = s.deck)
    (hm : t.mirror.live = s.mirror.live) : ImagesFollow t := by
  intro k
  refine shows_congr (h k) (by rw [hm]) ?_ ?_ ?_ ?_
  all_goals simp only [State.seat, State.target, State.word, hs, hd]

/-- A seat context is changed in what its image does not show. -/
theorem images_seat {s : State} (k : Seat) (f : SeatContext → SeatContext)
    (h1 : shownState (f (s.seat k)).state = shownState (s.seat k).state) (h2 : (f (s.seat k)).tries = (s.seat k).tries)
    (h3 : (f (s.seat k)).line = (s.seat k).line) (h4 : (f (s.seat k)).currentWord = (s.seat k).currentWord)
    (h : ImagesFollow s) : ImagesFollow (s.mapSeat k f) := by
  intro j
  have hj := h j
  by_cases e : j = k
  · subst e
    refine shows_congr hj rfl ?_ ?_ ?_ ?_
    all_goals simp only [State.seat_mapSeat_self, State.target, h1, h2, h3, h4]
    rfl
  · have hk : (s.mapSeat k f).seat j = s.seat j := by
      cases j <;> cases k <;> first | rfl | exact absurd rfl e
    refine shows_congr hj rfl ?_ ?_ ?_ ?_
    all_goals simp only [State.target, hk]
    rfl

/-- A write for one seat, after operations that leave the other seat, its image and the deck. -/
theorem images_write {s t : State} (k : Seat) (v : Verdict) (hs : t.seat (otherSeat k) = s.seat (otherSeat k))
    (hd : t.deck = s.deck) (hm : t.mirror.live = s.mirror.live) (h : ImagesFollow s) :
    ImagesFollow (writeImage k v t) := by
  intro j
  by_cases e : j = k
  · subst e; exact shows_writeImage _ _ _
  · have : j = otherSeat k := by cases j <;> cases k <;> first | rfl | exact absurd rfl e
    subst this
    have ht : (writeImage k v t).seat (otherSeat k) = s.seat (otherSeat k) := by
      rw [← hs]; simp [State.seat]
    refine shows_congr (h _) (by rw [writeImage_other, hm]) ?_ ?_ ?_ ?_
    all_goals simp only [State.target, ht]
    simp [State.word, hd]

/-- The same, where the seats are the old ones but for the one written. -/
theorem images_writeSet {s t : State} (k : Seat) (v : Verdict) (c : SeatContext) (hs : t.seats = s.seats.set k c)
    (hd : t.deck = s.deck) (hm : t.mirror.live = s.mirror.live) (h : ImagesFollow s) :
    ImagesFollow (writeImage k v t) :=
  images_write k v (by simp only [State.seat, hs, Pair.get_set_other]) hd hm h

theorem images_event (k : Seat) (event : SeatEvent) {s : State} (h : ImagesFollow s) :
    ImagesFollow (postEvent k event s) := images_unchanged h (by simp) (by simp) (by simp)

theorem images_settle {s : State} (h : ImagesFollow s) : ImagesFollow (settle s) :=
  images_unchanged (images_seat .b (fun c => { c with idleTimer := idleTimerAfter .b (settleIdle .a s) }) rfl rfl rfl rfl
    (images_seat .a (fun c => { c with idleTimer := idleTimerAfter .a s }) rfl rfl rfl rfl h)) rfl rfl rfl

theorem images_drillPhrase {k : Seat} {origin : SpeechOrigin} {g : Option Handle} {s t : State} {id : Nat}
    (e : queueDrillPhrase k origin g s = some (id, t)) (h : ImagesFollow s) : ImagesFollow t := by
  have f := queueDrillPhrase_frame e
  exact images_unchanged h (by simp [f]) (by simp [f]) (by simp [f])

/-! ## The drill cycle -/

theorem images_present (k : Seat) (w : WordIndex) {s : State} (h : ImagesFollow s) : ImagesFollow (present k w s) := by
  have hs : (clearForWord k w s).seat (otherSeat k) = s.seat (otherSeat k) := by
    simp only [clearForWord]
    split <;> simp
  unfold present
  split
  · rename_i t e
    have f := queueDrillPhrase_frame e
    have ht : t.seat (otherSeat k) = s.seat (otherSeat k) := by simp only [State.seat, f] at hs ⊢; exact hs
    exact images_write (s := s) k _ (by simp [ht]) (by simp [f]) (by simp [f]) h
  · exact images_event _ _ (images_write (s := s) k _ (by simp [hs]) (by simp) (by simp) h)

theorem images_toIdle (k : Seat) {s : State} (h : ImagesFollow s) : ImagesFollow (toIdle k s) :=
  images_write (s := s) k _ (by simp) (by simp) (by simp) h

theorem images_presentPick (k : Seat) {s : State} (h : ImagesFollow s) : ImagesFollow (presentPick k s) := by
  unfold presentPick
  split
  · exact images_present k _ h
  · exact images_event _ _ (images_toIdle k h)

theorem images_tryPost (k : Seat) {s : State} (h : ImagesFollow s) : ImagesFollow (tryPost k s) := by
  unfold tryPost
  split
  · exact h
  · split
    · rename_i p _ _
      refine images_seat k _ rfl rfl rfl rfl ?_
      intro j
      have hl : ∀ w, ((recordPosted p (takeRecord (.wordResult p.result) s)).word w).letters = (s.word w).letters := by
        intro w
        simp only [recordPosted, State.setProgress, State.word_setWord]
        split
        · subst w; rfl
        · rfl
      refine shows_congr (h j) (by simp) (by simp [State.seat]) (by simp [State.seat]) (by simp [State.seat]) ?_
      have hs : (recordPosted p (takeRecord (.wordResult p.result) s)).seat j = s.seat j := by simp [State.seat]
      simp only [State.target, hs]
      split
      · rw [hl]
      · rfl
    · exact h

theorem images_leaveReviewIfDone (k : Seat) {s : State} (h : ImagesFollow s) : ImagesFollow (leaveReviewIfDone k s) := by
  simp only [leaveReviewIfDone]
  split
  · split
    · exact images_presentPick k h
    · exact images_toIdle k h
  · exact h

theorem images_carryOutRetry (k : Seat) {s : State} (h : ImagesFollow s) : ImagesFollow (carryOutRetry k s) :=
  images_write (s := s) k _ (by simp) (by simp) (by simp) h

theorem images_retryIfDone (k : Seat) {s : State} (h : ImagesFollow s) : ImagesFollow (retryIfDone k s) := by
  simp only [retryIfDone]
  split
  · exact images_carryOutRetry k h
  · exact h

theorem images_promptDone (k : Seat) {s : State} (h : ImagesFollow s) : ImagesFollow (promptDone k s) := by
  unfold promptDone
  split
  · exact images_write (s := s) k _ (by simp) (by simp) (by simp) h
  · rename_i hs
    exact images_seat k _ (by simp [hs, shownState]) rfl rfl rfl h
  all_goals exact images_seat k _ rfl rfl rfl rfl h

theorem images_feedbackDone (k : Seat) {s : State} (h : ImagesFollow s) : ImagesFollow (feedbackDone k s) :=
  images_leaveReviewIfDone k (images_retryIfDone k (images_seat k _ rfl rfl rfl rfl h))

theorem images_tellSeat (e : SpeechEntry) {s : State} (h : ImagesFollow s) : ImagesFollow (tellSeat e s) := by
  unfold tellSeat
  split
  · exact h
  · split
    · exact images_promptDone _ h
    · split
      · exact images_feedbackDone _ h
      · exact h

theorem images_leaveEach (i : LaneId) (o : SpeechOutcome) (es : List SpeechEntry) {s : State} (h : ImagesFollow s) :
    ImagesFollow (leaveEach i o tellSeat es s) := by
  unfold leaveEach
  induction es generalizing s with
  | nil => exact h
  | cons e rest ih => exact ih (images_tellSeat e (images_unchanged h (by simp) (by simp) (by simp)))

theorem images_bargeIn (k : Seat) {s : State} (h : ImagesFollow s) : ImagesFollow (bargeIn k s) :=
  images_unchanged (images_leaveEach (.prompt k) .cut (queuedIn (.prompt k) (isDrillPrompt k) s) h)
    (by unfold bargeIn; simp) (by unfold bargeIn; simp) (by unfold bargeIn; simp)

theorem images_bargeInIfOn (k : Seat) {s : State} (h : ImagesFollow s) : ImagesFollow (bargeInIfOn k s) := by
  unfold bargeInIfOn
  split
  · exact images_bargeIn k h
  · exact h

/-! ## Keys of a seat -/

theorem images_takeLetter (k : Seat) (letter : Byte) {s : State} (h : ImagesFollow s) :
    ImagesFollow (takeLetter k letter s) := by
  simp only [takeLetter]
  have h := images_bargeInIfOn k h
  split
  · split
    · exact images_writeSet k _ _ (by rw [(queueBuzz_frame _ _).2.2.2.2.2.2.1]; rfl) (by simp) (by simp) h
    · split
      · exact images_writeSet k _ _ (by rw [(queueEcho_frame _ _ _).2.2.2.2.2.2.1]; rfl) (by simp) (by simp) h
      · exact images_writeSet k _ _ rfl rfl rfl h
  · exact images_writeSet k _ _ (by rw [(queueBump_frame _ _).2.2.2.2.2.2.1]; rfl) (by simp) (by simp) h

theorem images_takeErase (k : Seat) {s : State} (h : ImagesFollow s) : ImagesFollow (takeErase k s) := by
  unfold takeErase
  split
  · exact images_unchanged h (by simp) (by simp) (by simp)
  · exact images_write (s := s) k _ (by simp) (by simp) (by simp) h

theorem images_takeHint (k : Seat) {s : State} (h : ImagesFollow s) : ImagesFollow (takeHint k s) := by
  simp only [takeHint]
  have h := images_bargeInIfOn k h
  split
  · split
    · exact images_writeSet k _ _ (by rw [(queueEcho_frame _ _ _).2.2.2.2.2.2.1]; rfl) (by simp) (by simp) h
    · exact images_writeSet k _ _ rfl rfl rfl h
  · exact images_writeSet k _ _ (by rw [(queueBump_frame _ _).2.2.2.2.2.2.1]; rfl) (by simp) (by simp) h

theorem images_takeSayAgain (k : Seat) {s : State} (h : ImagesFollow s) : ImagesFollow (takeSayAgain k s) := by
  unfold takeSayAgain
  split
  · exact h
  · split
    · exact h
    · rename_i w _
      have f := replayWord_frame k (s.word w) s
      split
      · rename_i e
        rw [e] at f
        simp only at f
        exact images_seat k _ rfl rfl rfl rfl (images_unchanged h f.2.2.2.2.2.2.1 f.2.2.2.2.2.1 (by rw [f.2.2.2.2.2.2.2.2.2.1]))
      · rename_i e
        rw [e] at f
        simp only at f
        exact images_unchanged h (by simp [f]) (by simp [f]) (by simp [f])

theorem images_takeMash (k : Seat) {s : State} (h : ImagesFollow s) : ImagesFollow (takeMash k s) :=
  images_event _ _ (images_unchanged h (by simp) (by simp) (by simp))

theorem images_enterRetry (k : Seat) (v : Verdict) {s s₀ : State} (hs : s.seat (otherSeat k) = s₀.seat (otherSeat k))
    (hd : s.deck = s₀.deck) (hm : s.mirror.live = s₀.mirror.live) (h : ImagesFollow s₀) :
    ImagesFollow (enterRetry k v s) := by
  simp only [enterRetry]
  split
  · rename_i t e
    have f := queueDrillPhrase_frame e
    have ht : t.seat (otherSeat k) = s₀.seat (otherSeat k) := by simp only [State.seat, f] at hs ⊢; exact hs
    exact images_write (s := s₀) k _ (by simp [ht]) (by simp [f, hd]) (by simp [f, hm]) h
  · exact images_carryOutRetry k (images_write (s := s₀) k _ (by simp [hs]) (by simp [hd]) (by simp [hm]) h)

theorem images_enterFinal (k : Seat) (w : WordIndex) (j : Judgement) {s s₀ : State}
    (hs : s.seat (otherSeat k) = s₀.seat (otherSeat k)) (hd : s.deck = s₀.deck) (hm : s.mirror.live = s₀.mirror.live)
    (h : ImagesFollow s₀) : ImagesFollow (enterFinal k w j s) := by
  simp only [enterFinal]
  refine images_leaveReviewIfDone k (images_tryPost k ?_)
  split
  · rename_i t e
    have f := queueDrillPhrase_frame e
    have ht : t.seat (otherSeat k) = s₀.seat (otherSeat k) := by simp only [State.seat, f] at hs ⊢; exact hs
    exact images_write (s := s₀) k _ (by simp [ht]) (by simp [f, hd]) (by simp [f, hm]) h
  · exact images_write (s := s₀) k _ (by simp [hs]) (by simp [hd]) (by simp [hm]) h

theorem images_takeEnter (k : Seat) {s : State} (h : ImagesFollow s) : ImagesFollow (takeEnter k s) := by
  simp only [takeEnter]
  split
  · exact images_unchanged h (by simp) (by simp) (by simp)
  · split
    · exact h
    · split
      · exact images_enterFinal k _ _ (s₀ := s) (by simp) rfl rfl h
      · exact images_enterRetry k _ (s₀ := s) (by simp) rfl rfl h

theorem images_takeKey (k : Seat) (e : KeyEntry) {s : State} (h : ImagesFollow s) : ImagesFollow (takeKey k e s) := by
  simp only [takeKey]
  have h := images_seat k (fun c => { c with nudges := 0, idleTimer := c.idleTimer.map fun _ => c.idleMs }) rfl rfl rfl rfl h
  split
  · exact images_takeMash k h
  split
  · exact images_takeLetter k _ h
  split
  · exact images_takeErase k h
  split
  · exact images_takeHint k h
  split
  · exact images_takeSayAgain k h
  split
  · exact images_takeEnter k h
  · exact h

theorem images_takeKeysUpTo (n : Nat) (k : Seat) {s : State} (h : ImagesFollow s) :
    ImagesFollow (takeKeysUpTo n k s) := by
  induction n generalizing s with
  | zero => exact h
  | succ n ih =>
    have hq : ∀ rest, ImagesFollow (s.setKeyQueue k rest) := fun rest => images_unchanged h rfl rfl rfl
    unfold takeKeysUpTo
    split
    · exact ih (images_takeKey k _ (hq _))
    · exact ih (images_takeKey k _ (hq _))
    · exact ih (hq _)
    · exact h

theorem images_takeKeys (k : Seat) {s : State} (h : ImagesFollow s) : ImagesFollow (takeKeys k s) :=
  images_takeKeysUpTo _ k h

/-! ## Pausing, starting, stopping -/

theorem images_pause (k : Seat) (r : PauseReason) {s : State} (h : ImagesFollow s) : ImagesFollow (pause k r s) := by
  unfold pause
  split
  · exact images_write (s := s) k _ (by simp) (by simp) (by simp) h
  · exact h

theorem images_resume (k : Seat) {s : State} (h : ImagesFollow s) : ImagesFollow (resume k s) := by
  unfold resume
  split
  · exact images_takeKeys k (images_leaveReviewIfDone k (images_retryIfDone k
      (images_write (s := s) k _ (by simp) (by simp) (by simp) h)))
  all_goals exact h

theorem images_pauseKey (k : Seat) {s : State} (h : ImagesFollow s) : ImagesFollow (pauseKey k s) := by
  unfold pauseKey
  split
  all_goals first | exact h | exact images_event _ _ (images_pause k _ h) | exact images_event _ _ (images_resume k h)

theorem images_pauseForLesson (k : Seat) {s : State} (h : ImagesFollow s) : ImagesFollow (pauseForLesson k s) := by
  unfold pauseForLesson
  split
  · rename_i hs
    exact images_seat k _ (by simp [hs, shownState]) rfl rfl rfl h
  all_goals exact images_pause k _ h

theorem images_startSeat (k : Seat) {s : State} (h : ImagesFollow s) : ImagesFollow (startSeat k s) :=
  images_write (s := s) k _ (by simp) (by simp) (by simp) h

theorem images_cutPending (which : SpeechEntry → Bool) {s : State} (h : ImagesFollow s) :
    ImagesFollow (markCutPending which s) := images_unchanged h (by simp) (by simp) (by simp)

theorem images_orphan (k : Seat) {s : State} (h : ImagesFollow s) : ImagesFollow (orphanInFlight k s) :=
  images_unchanged h (by simp) (by simp) (by simp)

theorem images_abandon (k : Seat) {s : State} (h : ImagesFollow s) : ImagesFollow (abandon k s) :=
  images_cutPending _ (images_leaveEach (.echo k) .cut _ (images_leaveEach (.prompt k) .cut _
    (images_seat k (fun c => { c with presentationPrompt := none, nudges := 0, entryMs := 0 }) rfl rfl rfl rfl h)))

theorem images_nextWord (k : Seat) (i : Option WordIndex) {s : State} (h : ImagesFollow s) :
    ImagesFollow (nextWord k i s) := by
  unfold nextWord
  split
  all_goals first
    | exact images_takeKeys k (images_present k _ (images_abandon k h))
    | exact images_takeKeys k (images_presentPick k (images_abandon k h))
    | exact images_takeKeys k (images_present k _ h)
    | (split
       · exact images_takeKeys k (images_present k _ h)
       · exact images_event _ _ h)

theorem images_stopSeat (k : Seat) {s : State} (h : ImagesFollow s) : ImagesFollow (stopSeat k s) :=
  images_orphan k (images_cutPending _ (images_leaveEach (.echo k) .cancelled _ (images_leaveEach (.prompt k) .cancelled _
    (images_writeSet k .none { SeatContext.reset with round := (s.seat k).round, settings := (s.seat k).settings } rfl rfl
      rfl h))))

/-! ## Scanner, speech link, clock -/

theorem images_routeEntry (k : Seat) (code : Byte) (kind : KeyKind) {s : State} (h : ImagesFollow s) :
    ImagesFollow (routeEntry k code kind s) := by
  have hlose : ImagesFollow (loseKey k s) := images_unchanged h (by simp) (by simp) (by simp)
  simp only [routeEntry]
  split
  all_goals first
    | exact h
    | (split
       · exact images_event _ _ (images_resume k h)
       · exact hlose)
    | (split
       · exact images_takeKeys k (images_unchanged h rfl rfl rfl)
       · exact hlose)

theorem images_matrix (m : Seat) (x : MatrixState) {s : State} (h : ImagesFollow s) : ImagesFollow (s.setMatrix m x) :=
  images_unchanged h rfl rfl rfl

theorem images_pressEvent (m : Seat) (p : Position) (code : Byte) {s : State} (h : ImagesFollow s) :
    ImagesFollow (pressEvent m p code s) := by
  have hr : ∀ t, ImagesFollow t → ImagesFollow (routePress m code t) := by
    intro t h
    unfold routePress
    split
    · exact images_pauseKey m h
    · split
      · exact images_unchanged h (by simp) (by simp) (by simp)
      · exact images_routeEntry m _ _ h
  simp only [pressEvent]
  split
  · exact hr _ (images_matrix m _ h)
  · exact hr _ h

theorem images_mashCheck (m : Seat) {s : State} (h : ImagesFollow s) : ImagesFollow (mashCheck m s) := by
  simp only [mashCheck]
  split
  · exact images_routeEntry m _ _ (images_matrix m _ h)
  · exact h

theorem images_scanKey (m : Seat) (p : Position) (pressed : Bool) {s : State} (h : ImagesFollow s) :
    ImagesFollow (scanKey m p pressed s) := by
  have hc : ∀ x, ImagesFollow (mashCheck m (s.setMatrix m x)) := fun x => images_mashCheck m (images_matrix m x h)
  simp only [scanKey]
  split
  · exact images_matrix m _ h
  · simp only [completeKey]
    generalize (if (!(s.matrix m).diodes && ghostSuspect (s.matrix m) p) = true then KeyState.blocked 0 else .down) = key
    generalize (if (!(s.matrix m).diodes && ghostSuspect (s.matrix m) p) = true then _ else _) = ghosts
    split
    · exact images_pressEvent m p _ (hc _)
    · exact hc _
  · exact hc _

theorem images_scanPasses (ra rb : BitVec 64) (order : List Seat) (p q : Nat) {s : State} (h : ImagesFollow s) :
    ImagesFollow (scanPasses ra rb order p q s) := by
  have hpos : ∀ m r p t, ImagesFollow t → ImagesFollow (scanPosition m r p t) := by
    intro m r p t h
    unfold scanPosition
    split
    · exact images_scanKey m _ _ h
    · exact h
  have hrest : ∀ m r p t, ImagesFollow t → ImagesFollow (scanRest m r p t) := by
    intro m r p t h
    unfold scanRest
    generalize (List.range Config.keyCount).drop p = qs
    induction qs generalizing t with
    | nil => exact h
    | cons q qs ih => exact ih _ (hpos m r q t h)
  have hend : ∀ m t, ImagesFollow t → ImagesFollow (endPass m t) := fun m t h =>
    images_unchanged h (by simp) (by simp) (by simp)
  induction order generalizing p q s with
  | nil => exact hend _ _ (hend _ _ (hrest _ _ _ _ (hrest _ _ _ _ h)))
  | cons k order ih =>
    cases k
    · exact ih _ _ (hpos _ _ _ _ h)
    · exact ih _ _ (hpos _ _ _ _ h)

theorem images_complete (o : SpeechOutcome) {s : State} (h : ImagesFollow s) : ImagesFollow (complete o s) := by
  simp only [complete]
  split
  · exact h
  · rename_i u _
    have h1 : ImagesFollow { s with link := { s.link with inFlight := none, responseTimer := none } } :=
      images_unchanged h rfl rfl rfl
    split
    · exact h1
    · rename_i e rest _
      have h2 := images_tellSeat e (s := leaveLane u.lane o e { s with
        link := { s.link with inFlight := none, responseTimer := none } })
        (images_unchanged h1 (by simp) (by simp) (by simp))
      split
      · exact images_takeKeys _ h2
      · exact h2

theorem images_fire (x : Timer) {s : State} (h : ImagesFollow s) : ImagesFollow (fire x s) := by
  cases x with
  | repeating m =>
    simp only [fire, fireRepeat]
    split
    · split
      · exact images_routeEntry m _ _ (images_matrix m _ h)
      · exact h
    · exact h
  | idle k =>
    simp only [fire, fireIdle]
    split
    · split
      · simp only [nudge]
        refine images_seat k _ rfl rfl rfl rfl (images_event _ _ ?_)
        split
        · rename_i e; exact images_seat k _ rfl rfl rfl rfl (images_drillPhrase e h)
        · exact images_seat k _ rfl rfl rfl rfl h
      · exact images_event _ _ (images_pause k _ h)
    · exact h
  | response first =>
    have hf : ∀ kind d t, ImagesFollow t → ImagesFollow (raiseFault kind d t) := fun kind d t h =>
      images_unchanged h (by simp) (by simp) (by simp)
    simp only [fire, fireResponse]
    split
    · split
      · exact images_complete _ (hf _ _ _ h)
      · exact hf _ _ _ (images_complete _ h)
    · exact h
  | aged => exact images_unchanged h (fireAged_frame s).2.2.2.2.2.2.1 (fireAged_frame s).2.2.2.2.2.1 (by simp [fire])

theorem images_fireEach (timers : List Timer) {s : State} (h : ImagesFollow s) : ImagesFollow (fireEach timers s) := by
  unfold fireEach
  induction timers generalizing s with
  | nil => exact h
  | cons x xs ih => exact ih (images_settle (images_fire x h))

theorem images_advanceClock {s : State} (h : ImagesFollow s) : ImagesFollow (advanceClock s) := by
  intro k
  refine shows_congr (h k) rfl ?_ ?_ ?_ ?_ <;> cases k <;> rfl

theorem images_tick (ra rb : BitVec 64) (before : List Timer) (order : List Seat) {s : State} (h : ImagesFollow s) :
    ImagesFollow (tick ra rb before order s) :=
  images_settle (images_scanPasses _ _ _ _ _ (images_fireEach _ (images_advanceClock (images_fireEach _ h))))

theorem images_takeFetch (flags : Byte) {s : State} (h : ImagesFollow s) : ImagesFollow (takeFetch flags s) := by
  unfold takeFetch
  split
  · exact images_unchanged h rfl rfl rfl
  · have h' : ImagesFollow (if flags.getLsbD 1 then startAfresh s else s) := by
      split
      · exact images_unchanged (images_complete .lost h) rfl rfl rfl
      · exact h
    unfold acceptFetch
    dsimp only
    refine images_unchanged h' ?_ ?_ ?_ <;> simp

theorem images_takeDone (serial outcome : Byte) {s : State} (h : ImagesFollow s) :
    ImagesFollow (takeDone serial outcome s) := by
  have hp : ImagesFollow (protocolFault (staleDone s)) :=
    images_unchanged h (by simp [protocolFault, staleDone]) (by simp [protocolFault, staleDone])
      (by simp [protocolFault, staleDone])
  unfold takeDone
  repeat' split
  · exact hp
  · exact images_unchanged (images_complete _ h) rfl rfl rfl
  · exact images_unchanged h rfl rfl rfl
  · exact hp

theorem images_meetEach (met : List Meeting) {s : State} (h : ImagesFollow s) : ImagesFollow (meetEach met s) := by
  unfold meetEach
  induction met generalizing s with
  | nil => exact h
  | cons x xs ih =>
    refine ih ?_
    cases x
    · exact images_tick _ _ _ _ h
    · exact images_settle (images_fire _ h)
    · exact images_settle (images_takeFetch _ h)
    · exact images_settle (images_takeDone _ _ h)

theorem images_tellRoom (room : RoomOrder) {s : State} (h : ImagesFollow s) : ImagesFollow (tellRoom room s) := by
  have ho : ∀ k t, ImagesFollow t → ImagesFollow (offerThenLeave k t) := fun k t h =>
    images_takeKeys k (images_leaveReviewIfDone k (images_tryPost k h))
  have hl : ∀ k t, ImagesFollow t → ImagesFollow (leaveThenTake k t) := fun k t h =>
    images_takeKeys k (images_leaveReviewIfDone k h)
  simp only [tellRoom]
  split
  · split
    · exact ho _ _ (ho _ _ h)
    · exact hl _ _ (hl _ _ (images_tryPost _ (images_tryPost _ h)))
  · split
    · exact ho _ _ h
    · split
      · exact ho _ _ h
      · exact h

end Sys2Proof.Machine
end

