-- ==== Sys2Proof/Laws/Operands.lean ====
section
/-! SUPPORT. A reader of request bytes gives back what the byte's code was made from, and `pullInto` holds a setting in its
range. -/
namespace Sys2Proof.Machine
open Sys2Proof Sys2Proof.Safety

@[simp] theorem readSeatByte_code (k : Seat) : readSeatByte (seatCode k) = some k := by cases k <;> decide

@[simp] theorem readFlagByte_code (b : Bool) : readFlagByte (flagByte b) = some b := by cases b <;> decide

@[simp] theorem readCheckMode_code (c : CheckMode) : readCheckMode (checkCode c) = some c := by cases c <;> decide

@[simp] theorem readVerdict_code (v : Verdict) : readVerdict (verdictCode v) = some v := by cases v <;> decide

@[simp] theorem readChannel_code (c : Channel) : readChannel (channelCode c) = some c := by cases c <;> decide

theorem byteOf_toNat {n : Nat} (h : n < 256) : (byteOf n).toNat = n := by
  simp only [byteOf, BitVec.toNat_ofNat]; omega

@[simp] theorem readWordByte_code (w : WordIndex) : readWordByte (byteOf w.val) = some w := by
  have h : (byteOf w.val).toNat = w.val := byteOf_toNat (by have := w.isLt; simp only [Config.wordCount] at this; omega)
  simp [readWordByte, h]

@[simp] theorem readHandleByte_code (i : Handle) : readHandleByte (byteOf i.val) = some i := by
  have h : (byteOf i.val).toNat = i.val := byteOf_toNat (by have := i.isLt; simp only [Config.handleCount] at this; omega)
  simp [readHandleByte, h]

theorem byteOf_ne_filler {n : Nat} (h : n < 255) : byteOf n ≠ Config.filler := by
  intro e
  have := congrArg BitVec.toNat e
  rw [byteOf_toNat (by omega)] at this
  have : (Config.filler : Byte).toNat = 255 := rfl
  omega

@[simp] theorem readHandleOrNone_code (h : Option Handle) : readHandleOrNone (indexByte h) = some h := by
  cases h with
  | none => rfl
  | some i =>
    have : byteOf i.val ≠ Config.filler :=
      byteOf_ne_filler (by have := i.isLt; simp only [Config.handleCount] at this; omega)
    simp [readHandleOrNone, indexByte, this]

@[simp] theorem readWordOrNone_code (w : WordIndex) : readWordOrNone (byteOf w.val) = some (some w) := by
  have : byteOf w.val ≠ Config.filler :=
    byteOf_ne_filler (by have := w.isLt; simp only [Config.wordCount] at this; omega)
  simp [readWordOrNone, this]

@[simp] theorem readWordOrNone_filler : readWordOrNone 255 = some none := by decide

@[simp] theorem readSlot_code (i : Fin 8) : readSlot (byteOf i.val) = some i := by revert i; decide

@[simp] theorem readFeedbackRequest_code (i : Fin 8) (h : Option Handle) :
    readFeedbackRequest (byteOf i.val) (indexByte h) = some (some (i, h)) := by
  have : byteOf i.val ≠ Config.filler := byteOf_ne_filler (by omega)
  simp [readFeedbackRequest, this]

@[simp] theorem readFeedbackRequest_filler (x : Byte) : readFeedbackRequest 255 x = some none := rfl

@[simp] theorem readSayTarget_system (c : Channel) : readSayTarget 0 (channelCode c) = some (.system c) := by
  cases c <;> decide

@[simp] theorem readSayTarget_seat (k : Seat) (x : Byte) : readSayTarget (seatCode k + 1) x = some (.seat k) := by
  cases k <;> rfl

/-- A phrase's bytes read back as its items (R99). -/
theorem readItems_code (items : List Item) (h : ∀ i ∈ items, itemOk i = true) :
    readItems (items.flatMap itemBytes) = some items := by
  induction items with
  | nil => rfl
  | cons i rest ih =>
    have ih := ih fun j hj => h j (List.mem_cons_of_mem _ hj)
    have hi := h i (List.mem_cons_self ..)
    cases i <;> simp [itemBytes, readItems, readItem, itemOk] at hi ⊢ <;> simp [ih, hi]

/-- What `pullInto` stores is the nearest value of the range (R180). -/
theorem pullInto_clamped {w : Nat} (low high x : BitVec w) (h : low.toNat ≤ high.toNat) :
    Clamped low.toNat high.toNat x (pullInto low high x) := by
  unfold Clamped pullInto
  split
  · omega
  · split <;> omega

theorem pullIdleTimeout_clamped {x : Byte} (h : x ≠ 0) : Clamped 2 60 x (pullIdleTimeout x) := by
  simp only [pullIdleTimeout, if_neg h]
  exact pullInto_clamped 2 60 x (by decide)

theorem pullTAge_clamped {x : Word16} (h : x ≠ 0) : Clamped 10 2000 x (pullTAge x) := by
  simp only [pullTAge, if_neg h]
  exact pullInto_clamped 10 2000 x (by decide)

/-- An interval is a byte, and only 0 is out of its range (R34). -/
theorem pullInto_interval (x : Byte) : pullInto 1 255 x = if x = 0 then 1 else x := by
  have := x.isLt
  have h1 : (1 : Byte).toNat = 1 := rfl
  have h255 : (255 : Byte).toNat = 255 := rfl
  by_cases h : x = 0
  · subst h; decide
  · have : x.toNat ≠ 0 := fun e => h (BitVec.eq_of_toNat_eq (by simpa using e))
    simp only [pullInto]
    rw [if_neg (by omega), if_neg (by omega), if_neg h]

end Sys2Proof.Machine
end

