-- ==== Sys2Proof/Laws/Port.lean ====
section
/-! SUPPORT. A whole frame of the Lesson Port from a port that waits: what it does when its request is refused, and what
it carries out when it is not. -/
namespace Sys2Proof.Machine
open Sys2Proof Sys2Proof.Safety

/-- The state in which an accepted request is carried out: LCS is high again and the reply has been given. -/
def carriedFrom (s : State) (reply : List Byte) : State :=
  { s with port :=
    { lcsLow := false, frame := .waiting, lastOutcome := s.port.lastOutcome, status := statusByte s, reply := reply } }

/-- The check of a request does not look at the port. -/
theorem checkRequest_port (i : Instr) (s : State) (p : LessonPort) :
    checkRequest i { s with port := p } = checkRequest i s := by
  cases i <;> rfl

theorem recordOutcome_carriedFrom (s : State) (reply : List Byte) (o : LessonOutcome) :
    recordOutcome o (carriedFrom s reply) = { s with port := framePort s o reply } := rfl

theorem openFrame_of_idle {s : State} (h : PortIdle s) :
    openFrame s =
      { s with port :=
        { lcsLow := true, frame := .receiving, lastOutcome := s.port.lastOutcome, status := statusByte s, reply := [] } } := by
  simp [openFrame, h.1]

theorem updateClocked_same (i : Instr) (s : State) (r : Option LessonOutcome) (n : Shown) (p : LessonPort)
    (hp : p.frame = .complete i r n) : updateClocked i { s with port := p } = { s with port := p } := by
  cases p
  simp only at hp
  subst hp
  cases i <;> rfl

/-- A refused request changes the port alone, and the refusal is the frame's outcome (R175, R176, R178). -/
theorem lessonFrame_refused {s : State} {i : Instr} {o : LessonOutcome} (h : PortIdle s)
    (hc : checkRequest i s = .refused o) : lessonFrame .frameEnd i s = { s with port := framePort s o [] } := by
  simp only [lessonFrame, openFrame_of_idle h, receive, checkRequest_port, hc]
  simp only [reduceIte]
  rw [updateClocked_same _ _ _ _ _ rfl]
  rfl

/-- An incomplete request leaves the frame SHORT (R177). -/
theorem lessonFrame_incomplete {s : State} {i : Instr} (h : PortIdle s) (hc : checkRequest i s = .incomplete) :
    lessonFrame .frameEnd i s = { s with port := framePort s .short [] } := by
  simp only [lessonFrame, openFrame_of_idle h, receive, checkRequest_port, hc]
  simp only [reduceIte]
  have : updateClocked i { s with port :=
      { lcsLow := true, frame := Frame.receiving, lastOutcome := s.port.lastOutcome, status := statusByte s, reply := [] } }
      = { s with port :=
      { lcsLow := true, frame := Frame.receiving, lastOutcome := s.port.lastOutcome, status := statusByte s, reply := [] } } := by
    cases i <;> rfl
  rw [this]
  rfl

/-- An accepted request is carried out on the state with LCS high again, and its outcome recorded (R173, R179). -/
theorem lessonFrame_accepted {s : State} {i : Instr} {reply : List Byte} (h : PortIdle s)
    (hc : checkRequest i s = .accepted reply) :
    lessonFrame .frameEnd i s =
      recordOutcome (carryOut i (shownNow s) (carriedFrom s reply)).1
        (carryOut i (shownNow s) (carriedFrom s reply)).2 := by
  simp only [lessonFrame, openFrame_of_idle h, receive, checkRequest_port, hc]
  simp only [reduceIte]
  rw [updateClocked_same _ _ _ _ _ rfl]
  rfl

/-- A request's last byte changes the port alone (R178). -/
theorem lessonFrame_request (i : Instr) (s : State) : ∃ p, lessonFrame .request i s = { s with port := p } := by
  have h1 : ∃ p, openFrame s = { s with port := p } := by
    unfold openFrame; split
    · exact ⟨s.port, rfl⟩
    · exact ⟨_, rfl⟩
  have h2 : ∀ t : State, ∃ p, receive i t = { t with port := p } := by
    intro t
    unfold receive
    split
    · split
      · exact ⟨t.port, rfl⟩
      · exact ⟨_, rfl⟩
      · exact ⟨_, rfl⟩
    · exact ⟨t.port, rfl⟩
  obtain ⟨p, hp⟩ := h1
  obtain ⟨q, hq⟩ := h2 (openFrame s)
  exact ⟨q, by simp only [lessonFrame]; rw [hq, hp]⟩

/-- A READ REPORTS keeps its own operands at its frame end; nothing else is looked at there. -/
theorem updateClocked_receive (i : Instr) {s : State} (h : PortIdle s) :
    updateClocked i (receive i (openFrame s)) = receive i (openFrame s) := by
  rw [openFrame_of_idle h]
  unfold updateClocked
  split
  · rename_i hf
    simp only [receive, reduceIte, checkRequest] at hf ⊢
    cases hf
    rfl
  · rfl

/-- A frame cut at its last request byte comes to what the whole frame comes to, when the two requests are checked and
carried out alike (R178, R179). -/
theorem endFrame_after_request {i j : Instr} {s : State} (h : PortIdle s)
    (hc : ∀ t, checkRequest i t = checkRequest j t) (ho : ∀ n t, carryOut i n t = carryOut j n t) :
    endFrame (openFrame (receive i (openFrame s))) = lessonFrame .frameEnd j s := by
  unfold lessonFrame
  dsimp only
  rw [updateClocked_receive j h, openFrame_of_idle h]
  simp only [receive, reduceIte, hc]
  cases checkRequest j _ with
  | incomplete => rfl
  | refused o => rfl
  | accepted r => simp only [openFrame, endFrame, closePort, reduceIte, ho]

end Sys2Proof.Machine
end

