-- ==== Sys2Proof/Laws/Steps.lean ====
section
/-! SUPPORT. The scanner, the speech link, the clock and the ports keep what every primitive move keeps; so does a step. -/
namespace Sys2Proof.Machine
open Sys2Proof Sys2Proof.Safety

theorem flagNewest_length (q : List KeyEntry) : (flagNewest q).length = q.length := by
  induction q using flagNewest.induct <;> simp_all [flagNewest]

namespace Kept
variable {P : State → Prop} (hP : Kept P)
include hP

/-! ## Scanner -/

theorem loseKey (k : Seat) {s : State} (h : P s) : P (loseKey k s) :=
  hP.fault _ _ (hP.unchanged (hP.keyLess k (flagNewest (s.keyQueue k)) (Nat.le_of_eq (flagNewest_length _)) h)
    rfl rfl rfl rfl rfl rfl rfl)

theorem routeEntry (k : Seat) (code : Byte) (kind : KeyKind) {s : State} (h : P s) : P (routeEntry k code kind s) := by
  simp only [Machine.routeEntry]
  split
  all_goals first
    | exact h
    | (split
       · exact hP.event _ _ (hP.resume k h)
       · exact hP.loseKey k h)
    | (split
       · rename_i hl; exact hP.takeKeys k (hP.keyMore k _ hl h)
       · exact hP.loseKey k h)

theorem matrix (m : Seat) (x : MatrixState) {s : State} (h : P s) : P (s.setMatrix m x) :=
  hP.unchanged h rfl rfl rfl rfl rfl rfl rfl

theorem routePress (m : Seat) (code : Byte) {s : State} (h : P s) : P (routePress m code s) := by
  unfold Machine.routePress
  split
  · exact hP.pauseKey m h
  · split
    · exact hP.offer _ h
    · exact hP.routeEntry m _ _ h

theorem pressEvent (m : Seat) (p : Position) (code : Byte) {s : State} (h : P s) : P (pressEvent m p code s) := by
  simp only [Machine.pressEvent]
  split
  · exact hP.routePress m _ (hP.matrix m _ h)
  · exact hP.routePress m _ h

theorem mashCheck (m : Seat) {s : State} (h : P s) : P (mashCheck m s) := by
  simp only [Machine.mashCheck]
  split
  · exact hP.routeEntry m _ _ (hP.matrix m _ h)
  · exact h

theorem completeKey (m : Seat) (p : Position) {s : State} (h : P s) : P (completeKey m p s) := by
  have h : ∀ x, P (Machine.mashCheck m (s.setMatrix m x)) := fun x => hP.mashCheck m (hP.matrix m x h)
  simp only [Machine.completeKey]
  generalize (if (!(s.matrix m).diodes && ghostSuspect (s.matrix m) p) = true then KeyState.blocked 0 else .down) = key
  generalize (if (!(s.matrix m).diodes && ghostSuspect (s.matrix m) p) = true then _ else _) = ghosts
  split
  · exact hP.pressEvent m p _ (h _)
  · exact h _

theorem scanKey (m : Seat) (p : Position) (pressed : Bool) {s : State} (h : P s) : P (scanKey m p pressed s) := by
  simp only [Machine.scanKey]
  split
  · exact hP.matrix m _ h
  · exact hP.completeKey m p h
  · exact hP.mashCheck m (hP.matrix m _ h)

theorem scanPosition (m : Seat) (r : BitVec 64) (p : Nat) {s : State} (h : P s) : P (scanPosition m r p s) := by
  unfold Machine.scanPosition
  split
  · exact hP.scanKey m _ _ h
  · exact h

theorem scanRest (m : Seat) (r : BitVec 64) (p : Nat) {s : State} (h : P s) : P (scanRest m r p s) := by
  unfold Machine.scanRest
  generalize (List.range Config.keyCount).drop p = qs
  induction qs generalizing s with
  | nil => exact h
  | cons q qs ih => exact ih (hP.scanPosition m r q h)

theorem endPass (m : Seat) {s : State} (h : P s) : P (endPass m s) := by
  simp only [Machine.endPass]
  split
  · exact hP.matrix m _ h
  · exact h

theorem scanPasses (ra rb : BitVec 64) (order : List Seat) (p q : Nat) {s : State} (h : P s) :
    P (scanPasses ra rb order p q s) := by
  induction order generalizing p q s with
  | nil => exact hP.endPass .b (hP.endPass .a (hP.scanRest .b rb q (hP.scanRest .a ra p h)))
  | cons k order ih =>
    cases k
    · exact ih _ _ (hP.scanPosition .a ra p h)
    · exact ih _ _ (hP.scanPosition .b rb q h)

/-! ## Speech link -/

theorem link (l : Link) {s : State} (h : P s) : P { s with link := l } := hP.unchanged h rfl rfl rfl rfl rfl rfl rfl

theorem complete (o : SpeechOutcome) {s : State} (h : P s) : P (complete o s) := by
  simp only [Machine.complete]
  split
  · exact h
  · rename_i u _
    have h1 := hP.link { s.link with inFlight := none, responseTimer := none } h
    split
    · exact h1
    · rename_i e rest hl
      have h2 := hP.tellSeat e (hP.left u.lane o e (s := { s with
        link := { s.link with inFlight := none, responseTimer := none } })
        (by show e ∈ s.lane u.lane; rw [hl]; exact List.mem_cons_self ..) h1)
      split
      · exact hP.takeKeys _ h2
      · exact h2

theorem startUtterance (i : LaneId) {s : State} (h : P s) : P (startUtterance i s).2 := by
  simp only [Machine.startUtterance]
  split
  · exact h
  · rename_i e rest hl
    exact hP.link _ (hP.head i e _ rest hl rfl rfl (.inl rfl) h)

theorem endUtterance (u : Utterance) (e : SpeechEntry) (cut : Bool) {s : State} (he : inFlightEntry s = some e)
    (h : P s) : P (endUtterance u e cut s).2 :=
  hP.link _ (hP.inFlightHead he _ rfl rfl (.inl rfl) h)

theorem streamItem (u : Utterance) (e : SpeechEntry) {s : State} (he : inFlightEntry s = some e) (h : P s) :
    P (streamItem u e s).2 := by
  unfold Machine.streamItem
  split
  · exact hP.endUtterance u e _ he h
  · split
    · exact hP.link _ h
    · dsimp only
      split
      · exact hP.link _ h
      · exact hP.endUtterance _ e _ he h

theorem serveFetch {s : State} (h : P s) : P (serveFetch s).2 := by
  unfold Machine.serveFetch
  split
  · split
    · exact hP.startUtterance _ h
    · exact h
  · split
    · rename_i he
      split
      · exact hP.streamItem _ _ he h
      · exact h
    · exact h

theorem takeFetch (flags : Byte) {s : State} (h : P s) : P (takeFetch flags s) := by
  unfold Machine.takeFetch
  split
  · exact hP.link _ h
  · have h1 : P (if flags.getLsbD 1 then startAfresh s else s) := by
      split
      · exact hP.link _ (hP.complete _ h)
      · exact h
    exact hP.link _ (hP.serveFetch (hP.link _ h1))

theorem takeDone (serial outcome : Byte) {s : State} (h : P s) : P (takeDone serial outcome s) := by
  unfold Machine.takeDone
  split
  · split
    · exact hP.fault _ _ (hP.link _ h)
    · split
      · exact hP.link _ (hP.complete _ h)
      · exact hP.link _ h
  · exact hP.fault _ _ (hP.link _ h)

theorem takeUnknownRequest {s : State} (h : P s) : P (takeUnknownRequest s) := hP.fault _ _ (hP.link _ h)

/-! ## Timers and the clock -/

theorem fireRepeat (m : Seat) {s : State} (h : P s) : P (fireRepeat m s) := by
  simp only [Machine.fireRepeat]
  split
  · split
    · exact hP.routeEntry m _ _ (hP.matrix m _ h)
    · exact h
  · exact h

theorem nudge (k : Seat) {s : State} (h : P s) : P (nudge k s) := by
  simp only [Machine.nudge]
  refine hP.seat k _ rfl (hP.event _ _ ?_)
  split
  · rename_i e; exact hP.seat k _ rfl (hP.drillPhrase e h)
  · exact hP.seat k _ rfl h

theorem fireIdle (k : Seat) {s : State} (h : P s) : P (fireIdle k s) := by
  simp only [Machine.fireIdle]
  split
  · split
    · exact hP.nudge k h
    · exact hP.event _ _ (hP.pause k _ h)
  · exact h

theorem fireResponse (first : Bool) {s : State} (h : P s) : P (fireResponse first s) := by
  unfold Machine.fireResponse
  split
  · split
    · exact hP.complete _ (hP.fault _ _ h)
    · exact hP.fault _ _ (hP.complete _ h)
  · exact h

theorem fireAged {s : State} (h : P s) : P (fireAged s) := by
  unfold Machine.fireAged
  split
  · exact hP.unchanged h rfl rfl rfl rfl rfl rfl rfl
  · exact h

theorem fire (x : Timer) {s : State} (h : P s) : P (fire x s) := by
  cases x
  · exact hP.fireRepeat _ h
  · exact hP.fireIdle _ h
  · exact hP.fireResponse _ h
  · exact hP.fireAged h

theorem fireEach (timers : List Timer) {s : State} (h : P s) : P (fireEach timers s) := by
  unfold Machine.fireEach
  induction timers generalizing s with
  | nil => exact h
  | cons x xs ih => exact ih (hP.settled (hP.fire x h))

theorem advanceClock {s : State} (h : P s) : P (advanceClock s) :=
  hP.same (s := s) ⟨rfl, fun _ => rfl, rfl, rfl, rfl, fun k => by cases k <;> rfl, fun _ => rfl⟩ h

theorem tick (ra rb : BitVec 64) (before : List Timer) (order : List Seat) {s : State} (h : P s) :
    P (tick ra rb before order s) :=
  hP.settled (hP.scanPasses _ _ _ _ _ (hP.fireEach _ (hP.advanceClock (hP.fireEach _ h))))

/-! ## Lesson Port -/

theorem port (p : LessonPort) {s : State} (h : P s) : P { s with port := p } := hP.unchanged h rfl rfl rfl rfl rfl rfl rfl

omit hP in
theorem content {α : Type} (c : Option α) (act : α → Carried) {s : State} (ha : ∀ x, c = some x → P (act x).2)
    (h : P s) : P (carryContent c s act).2 := by
  unfold carryContent
  split
  · exact ha _ rfl
  · exact h

theorem offerThenLeave (k : Seat) {s : State} (h : P s) : P (offerThenLeave k s) :=
  hP.takeKeys k (hP.leaveReviewIfDone k (hP.tryPost k h))

theorem leaveThenTake (k : Seat) {s : State} (h : P s) : P (leaveThenTake k s) :=
  hP.takeKeys k (hP.leaveReviewIfDone k h)

theorem meet (x : Meeting) {s : State} (h : P s) : P (meet x s) := by
  cases x
  · exact hP.tick _ _ _ _ h
  · exact hP.settled (hP.fire _ h)
  · exact hP.settled (hP.takeFetch _ h)
  · exact hP.settled (hP.takeDone _ _ h)

theorem meetEach (met : List Meeting) {s : State} (h : P s) : P (meetEach met s) := by
  unfold Machine.meetEach
  induction met generalizing s with
  | nil => exact h
  | cons x xs ih => exact ih (hP.meet x h)

theorem tellRoom (room : RoomOrder) {s : State} (h : P s) : P (tellRoom room s) := by
  simp only [Machine.tellRoom]
  split
  · split
    · exact hP.offerThenLeave _ (hP.offerThenLeave _ h)
    · exact hP.leaveThenTake _ (hP.leaveThenTake _ (hP.tryPost _ (hP.tryPost _ h)))
  · split
    · exact hP.offerThenLeave _ h
    · split
      · exact hP.offerThenLeave _ h
      · exact h

theorem causes {s : State} (h : P s) : P (refreshCauses s) := hP.unchanged h rfl rfl rfl rfl rfl rfl rfl

end Kept

/-- The letters of a LOAD WORD that reads are at most 16 (R26). -/
theorem readWordRequest_letters {bytes : List Byte} {r : WordRequest} (h : readWordRequest bytes = some r) :
    r.letters.length ≤ 16 := by
  unfold readWordRequest at h
  split at h
  · split at h
    · split at h
      · cases h
      · rename_i hc
        cases h
        simp only [not_or, Config.maxLetters] at hc
        exact Nat.le_of_not_lt hc.2.1
    · cases h
  · cases h

/-- A WRITE PHRASE never writes an EMPTY handle's kind (R101). -/
theorem readPhraseRequest_kind {bytes : List Byte} {r : Handle × HandleState × List Item}
    (h : readPhraseRequest bytes = some r) : r.2.1 ≠ .empty := by
  unfold readPhraseRequest at h
  split at h
  · split at h
    · rename_i x k i hx hk hi
      split at h
      · cases h
      · cases h
        unfold readPhraseKind at hk
        split at hk
        · cases hk; simp
        · split at hk
          · cases hk; simp
          · cases hk
    · cases h
  · cases h

namespace Kept
variable {P : State → Prop} (hP : Kept P)
include hP

theorem sayTo (handle target channel tag : Byte) {s : State} (h : P s) : P (carrySay handle target channel tag s).2 := by
  refine content _ _ (fun r _ => ?_) h
  split
  · unfold saySystem
    split
    · exact h
    · rename_i ht
      split
      · rename_i hl; exact hP.settled (hP.system _ _ _ _ hl ht h)
      · exact h
  · unfold saySeat
    split
    · split
      · exact h
      · rename_i ht
        split
        · rename_i hl
          refine hP.settled (hP.prompt _ _ _ _ (Nat.lt_of_lt_of_le hl ?_) ht h)
          decide
        · exact h
    · exact h

theorem carryOut (i : Instr) (shown : Shown) {s : State} (h : P s) : P (carryOut i shown s).2 := by
  cases i <;> try exact h
  case resetPart => exact hP.reset s
  case setTiming => exact hP.unchanged h rfl rfl rfl rfl rfl rfl rfl
  case loadKeymap => exact content _ _ (fun r _ => hP.matrix _ _ h) h
  case loadWord =>
    refine content _ _ (fun r hr => ?_) h
    split
    · exact h
    · exact hP.letters r (readWordRequest_letters hr) h
  case setProgress =>
    refine content _ _ (fun r hr => ?_) h
    split
    · exact h
    · refine hP.same (s := s) ⟨rfl, fun _ => rfl, rfl, rfl, rfl, fun _ => rfl, fun w => ?_⟩ h
      simp only [State.setProgress, State.word_setWord]
      split
      · subst w; rfl
      · rfl
  case setIntervals => exact hP.same (s := s) ⟨rfl, fun _ => rfl, rfl, rfl, rfl, fun _ => rfl, fun _ => rfl⟩ h
  case setFeedback =>
    exact content _ _ (fun r _ =>
      hP.same (s := s) ⟨rfl, fun i => by cases i <;> rfl, rfl, rfl, rfl, fun _ => rfl, fun _ => rfl⟩ h) h
  case writePhrase =>
    refine content _ _ (fun r hr => ?_) h
    split
    · exact h
    · rename_i he
      split
      · exact h
      · rename_i hn
        exact hP.store _ _ _ (Classical.not_not.mp he) (readPhraseRequest_kind hr) (Nat.le_of_not_lt hn) h
  case freePhrase =>
    refine content _ _ (fun r _ => ?_) h
    split
    · rename_i hs; exact hP.free _ (by rw [hs]; simp) h
    · rename_i hs; exact hP.free _ (by rw [hs]; simp) h
    · exact h
    · exact h
  case say => exact hP.sayTo _ _ _ _ h
  case setSeat =>
    refine content _ _ (fun r _ => ?_) h
    split
    all_goals first | exact h | exact hP.same (.seat s _ _ rfl) h
  case startSeat =>
    refine content _ _ (fun r _ => ?_) h
    split
    all_goals first | exact h | exact hP.settled (hP.startSeat _ h)
  case nextWord =>
    refine content _ _ (fun r _ => ?_) h
    split
    all_goals first | exact h | exact hP.settled (hP.nextWord _ _ h)
  case pauseSeat =>
    refine content _ _ (fun r _ => ?_) h
    split
    all_goals first | exact h | exact hP.settled (hP.pauseForLesson _ h)
  case resumeSeat =>
    refine content _ _ (fun r _ => ?_) h
    split
    all_goals first | exact h | exact hP.settled (hP.resume _ h)
  case stopSeat =>
    refine content _ _ (fun r _ => ?_) h
    split
    all_goals first | exact h | exact hP.settled (hP.stopSeat _ h)
  case readReports =>
    simp only [Machine.carryOut, carryReadReports]
    split
    · exact hP.meetEach _ h
    · exact hP.settled (hP.tellRoom _ (hP.meetEach _ (hP.causes (hP.recordLess _ h))))
  case setCauses => exact hP.settled (hP.causes (hP.unchanged h rfl rfl rfl rfl rfl rfl rfl))
  case clearFault => exact hP.settled (hP.unchanged h rfl rfl rfl rfl rfl rfl rfl)
  case readCounters =>
    simp only [Machine.carryOut, carryReadCounters]
    split
    · exact hP.same (s := s) ⟨rfl, fun i => by cases i <;> rfl, rfl, rfl, rfl, fun _ => rfl, fun _ => rfl⟩ h
    · exact h

theorem openFrame {s : State} (h : P s) : P (openFrame s) := by
  unfold Machine.openFrame
  split
  · exact h
  · exact hP.port _ h

theorem receive (i : Instr) {s : State} (h : P s) : P (receive i s) := by
  unfold Machine.receive
  split
  · split
    · exact h
    · exact hP.port _ h
    · exact hP.port _ h
  · exact h

theorem endFrame {s : State} (h : P s) : P (endFrame s) := by
  unfold Machine.endFrame
  split
  · exact hP.port _ h
  · exact hP.port _ (hP.port _ h)
  · exact hP.port _ (hP.port _ h)
  · exact hP.port _ (hP.carryOut _ _ (hP.port _ h))

theorem updateClocked (i : Instr) {s : State} (h : P s) : P (updateClocked i s) := by
  unfold Machine.updateClocked
  split
  · exact hP.port _ h
  · exact h

theorem lessonFrame (stage : FrameStage) (i : Instr) {s : State} (h : P s) : P (lessonFrame stage i s) := by
  have h := hP.receive i (hP.openFrame h)
  cases stage
  · exact h
  · exact hP.endFrame (hP.updateClocked i h)

/-! ## Commands and steps -/

theorem exec (i : Instr) {s t : State} (e : Machine.exec i s = .next t) (h : P s) : P t := by
  have hf := fun (g : FrameStage) (i : Instr) => hP.lessonFrame g i h
  cases i <;> cases e
  case powerOnReset => exact hP.reset s
  case lessonClockTick => exact hP.tick _ _ _ _ h
  case repeatExpiry => exact hP.settled (hP.fireRepeat _ h)
  case idleTimerExpiry => exact hP.settled (hP.fireIdle _ h)
  case statusByte =>
    refine hP.openFrame ?_
    split
    · exact hP.endFrame h
    · exact h
  case shortFrame => exact hP.endFrame (hP.openFrame h)
  case agedExpiry => exact hP.settled (hP.fireAged h)
  case fetch => exact hP.settled (hP.takeFetch _ h)
  case engineDone => exact hP.settled (hP.takeDone _ _ h)
  case unknownSpeechRequest =>
    split
    · exact h
    · exact hP.settled (hP.takeUnknownRequest h)
  case responseTimerExpiry => exact hP.settled (hP.fireResponse _ h)
  case displayPointerWrite =>
    unfold writePointer
    repeat' split
    all_goals exact hP.unchanged h rfl rfl rfl rfl rfl rfl rfl
  case displayReadBegin =>
    unfold beginRead
    split
    all_goals exact hP.unchanged h rfl rfl rfl rfl rfl rfl rfl
  case displayReadEnd =>
    unfold endRead
    split
    · exact h
    · exact hP.unchanged h rfl rfl rfl rfl rfl rfl rfl
    · exact hP.pins (hP.unchanged h rfl rfl rfl rfl rfl rfl rfl)
  all_goals exact hf _ _

/-- A step keeps what every primitive move keeps. -/
theorem step {s t : State} (e : Machine.step s = .next t) (h : P s) : P t := by
  unfold Machine.step at e
  split at e
  · cases e; exact h
  · exact hP.exec _ e (hP.unchanged h rfl rfl rfl rfl rfl rfl rfl)

end Kept

end Sys2Proof.Machine
end

