-- ==== Sys2Proof/Tests/Slice0.lean ====
section
/-! SUPPORT. Tests: terms that are not well formed, the worked cases of the spec, one small step a command, and for every
statement a state and operands that meet its hypotheses. -/
namespace Sys2Proof.Tests
set_option Elab.async false
open Sys2Proof Sys2Proof.Machine Sys2Proof.Safety

/-- Two bytes that make a quantity. -/
def two (n : Nat) : TwoBytes := { first := byteOf (n / 256), second := byteOf n }

/-! ## WellFormed refuses -/

theorem test_wf_keymap_length : (Instr.loadKeymap .frameEnd 0 0 (List.replicate 63 0)).wellFormed = false := by decide
theorem test_wf_word_length : (Instr.loadWord .frameEnd (two 8) [0, 1, 255, 255, 0, 3, 1]).wellFormed = false := by decide
theorem test_wf_phrase_length : (Instr.writePhrase .frameEnd (two 4) [0, 1, 2]).wellFormed = false := by decide
theorem test_wf_listed_code : (Instr.unknownCommand .frameEnd 0x45).wellFormed = false := by decide
theorem test_wf_listed_speech_code : (Instr.unknownSpeechRequest 0x02).wellFormed = false := by decide
theorem test_wf_expiry_twice : (Instr.lessonClockTick 0 0 [.idle .a, .idle .a] []).wellFormed = false := by decide
theorem test_wf_met_expiry_twice :
    (Instr.readReports .frameEnd 17
      { met := [.tick 0 0 [.aged, .aged] []], first := .a, leaveBetween := false, leavesFirst := .a }).wellFormed = false := by
  decide
theorem test_wf_accepts : (Instr.loadWord .frameEnd (two 8) [0, 1, 255, 255, 0, 3, 1, 20]).wellFormed = true
    ∧ (Instr.unknownCommand .frameEnd 0x46).wellFormed = true := by decide

/-! ## The worked cases of judging -/

/-- A word in the letter codes of R3: a is 1, z is 26. -/
def spell (w : String) : List Byte := w.toList.map fun c => BitVec.ofNat 8 (c.toNat - 96)

theorem test_case1_freind :
    judge (spell "freind") (spell "friend") 0 1 =
      { distance := 1, verdict := .near, firstError := some { kind := .swap, position := 3 },
        marks := [.right, .right, .wrong, .wrong, .right, .right], score := 70 }
    ∧ newMasteryOf 100 70 4 = 140 := by decide +kernel

theorem test_case2_sed :
    judge (spell "sed") (spell "said") 0 2 =
      { distance := 2, verdict := .missed, firstError := some { kind := .omit, position := 2 },
        marks := [.right, .wrong, .right], score := 30 }
    ∧ newMasteryOf 140 30 4 = 109 := by decide +kernel

theorem test_case3_cat :
    judge (spell "cat") (spell "cat") 0 1 =
      { distance := 0, verdict := .exact, firstError := none, marks := [.right, .right, .right], score := 100 }
    ∧ newMasteryOf 200 100 4 = 228 ∧ newStreakOf 2 .exact = 3
    ∧ dueRoundOf 65500 (intervalOf #v[2, 5, 12, 30] .exact 228 3) = 65535 := by decide +kernel

theorem test_case4_friend_hinted :
    (judge (spell "friend") (spell "friend") 1 1).verdict = .helped ∧ scoreOf 0 1 1 = 85
    ∧ newMasteryOf 140 85 4 = 179 ∧ intervalOf #v[2, 5, 12, 30] .helped 179 0 = 12 := by decide +kernel

theorem test_case5_catt :
    judge (spell "catt") (spell "cat") 0 1 =
      { distance := 1, verdict := .near, firstError := some { kind := .insert, position := 3 },
        marks := [.right, .right, .wrong, .right], score := 70 } := by decide +kernel

theorem test_long_entry :
    (judge (List.replicate 20 1) [1] 0 1).distance = 19
    ∧ (judge (List.replicate 20 1) [1] 0 1).firstError = some { kind := .insert, position := 1 } := by decide +kernel

theorem test_correct_prefix :
    correctPrefix (spell "fre") (spell "friend") = 2 ∧ correctPrefix (spell "catt") (spell "cat") = 3 := by decide

/-! ## Small states -/

/-- The record of a KEPT phrase of two items on page 0. -/
def keptPhrase : HandleRecord := { state := .kept, itemCount := 2, chain := [0], references := 0 }

/-- Two words, a KEPT phrase under handle 0 and a ONE-SHOT one under handle 1, every feedback slot but 5 and 7 at
handle 0. -/
def lesson : State :=
  { State.reset with
    deck :=
      { words :=
          (Deck.reset.words.set 0
            { WordRecord.reset with enabled := true, letters := spell "cat", prompt := some 0 }).set 1
            { WordRecord.reset with enabled := true, letters := spell "said" },
        intervals := #v[2, 5, 12, 30] },
    phrases :=
      { pages := PhraseMemory.reset.pages.set 0 [.sound 11, .spellTarget],
        free := (List.range 64).drop 2 |>.map (Fin.ofNat 64),
        handles :=
          (PhraseMemory.reset.handles.set 0 keptPhrase).set 1
            { state := .oneShot, itemCount := 1, chain := [1], references := 0 } },
    lanes := { Lanes.reset with feedback := #v[some 0, some 0, some 0, some 0, some 0, none, some 0, none] } }

/-- The images, the idle timers and the lines made to follow. -/
def sound (s : State) : State := settle (writeImage .b .none (writeImage .a .none s))

theorem sound_lines (s : State) : LinesFollow (sound s) := linesFollow_settle _

theorem sound_images (s : State) : ImagesFollow (sound s) := by
  refine images_settle fun k => ?_
  cases k
  · exact shows_congr (shows_writeImage .a .none s) (writeImage_other .b _ _) (by simp [State.seat]) (by simp [State.seat])
      (by simp [State.seat]) (by simp [State.target, State.seat, State.word])
  · exact shows_writeImage .b _ _

theorem sound_port (s : State) : (sound s).port = s.port := by simp [sound]

theorem sound_idle {s : State} (h : s.port = LessonPort.reset) : PortIdle (sound s) := by
  rw [PortIdle, sound_port, h]
  exact ⟨rfl, rfl⟩

/-- Seat A of the lesson in ENTRY on word 0, with a line. -/
def typing (line : List Byte) : State :=
  lesson.mapSeat .a fun c =>
    { c with state := .entry, currentWord := some 0,
             line := line.map fun x => { letter := x, origin := .typed, mark := .unchecked } }

/-- A speech entry. -/
def entry (content : Content) (seat : Option Seat) (tag : Byte) (state : EntryState) (cut : Bool) : SpeechEntry :=
  { id := 0, content := content, origin := .lessonSay, seat := seat, channel := some .left, tag := tag, state := state,
    cutPending := cut }

/-- A lane with one entry, in flight or not. -/
def speaking (i : LaneId) (e : SpeechEntry) (position : Nat) (inFlight : Bool) (s : State) : State :=
  let t := s.setLane i [e]
  { t with
    nextEntryId := 1,
    link :=
      { t.link with
        fetched := true, sequence := some false,
        inFlight := if inFlight then some { lane := i, serial := 7, position := position, expansion := none } else none,
        responseTimer := if inFlight then some 0 else none } }

/-- A full report queue. -/
def fullQueue : List Record := List.replicate 16 { stamp := 0, body := .seatEvent .b .nudge }

/-- A fault record. -/
def someFault : FaultRecord := { kind := .keyOverrun, detail := 0, stamp := 5, extra := 0 }

/-- A pending result of seat A on word 0. -/
def someResult : PendingResult :=
  { result :=
      { seat := .a, word := 0, verdict := .exact, distance := 0, firstError := none, hints := 0, tries := 1, replays := 0,
        overtyped := 0, score := 100, oldMastery := 0, newMastery := 128, entryTime := 0 },
    streak := 1, due := 12 }

/-! ## Hypotheses of the statements: steps, reset, invariants -/

theorem test_hyps_StepRunsFrontCommand : State.reset.pending = [] := rfl

theorem test_hyps_ResetsRestoreThePart :
    (PortIdle (sound lesson) ∧ (sound lesson).mirror.read = .none)
    ∧ (let s (r : ReadState) : State := { lesson with mirror := { lesson.mirror with read := r } }
       (∀ r, PortIdle (s r)) ∧ (s (.reading 51)).mirror.read = .reading 51
         ∧ (s (.abandoned 51 lesson.mirror.live)).mirror.read = .abandoned 51 lesson.mirror.live) :=
  ⟨⟨sound_idle rfl, by decide +kernel⟩, fun r => ⟨rfl, rfl⟩, rfl, rfl⟩

theorem test_hyps_LinesFollowEveryStep :
    let s := { sound lesson with pending := [.fetch 1] }
    LinesFollow s ∧ ∃ t, step s = .next t :=
  ⟨linesFollow_congr (sound_lines lesson) rfl rfl rfl rfl rfl rfl, _, rfl⟩

theorem test_hyps_ImagesFollowEveryStep :
    let s := { sound lesson with pending := [.startSeat .frameEnd 0] }
    ImagesFollow s ∧ ∃ t, step s = .next t := ⟨images_unchanged (sound_images lesson) rfl rfl rfl, _, rfl⟩

theorem test_hyps_CapacityKeptEveryStep :
    let s := { lesson with pending := [.loadWord .frameEnd (two 6) [0, 1, 255, 255, 0, 1]] }
    WithinCapacity s ∧ ∃ t, step s = .next t := by
  refine ⟨⟨?_, by decide, ?_, ?_, by decide, ?_, by decide +kernel⟩, _, rfl⟩
  all_goals intro k; cases k <;> decide

theorem test_hyps_PagesAccountedEveryStep :
    let s := { lesson with pending := [.freePhrase .frameEnd 0] }
    PagesAccounted s ∧ ∃ t, step s = .next t := ⟨⟨by decide +kernel, by decide +kernel, by decide +kernel⟩, _, rfl⟩

theorem lesson_accounted : SpeechAccounted lesson := by
  refine ⟨?_, ?_, ?_, ?_, ?_, by decide +kernel, by decide +kernel⟩
  · intro i e he
    cases i with
    | system => cases he
    | prompt k => cases k <;> cases he
    | echo k => cases k <;> cases he
  · intro i
    cases i with
    | system => decide
    | prompt k => cases k <;> decide
    | echo k => cases k <;> decide
  · intro e he; cases he
  · intro k e he; cases k <;> cases he
  · intro k e he; cases k <;> cases he

theorem test_hyps_ReferencesCountedEveryStep :
    SpeechAccounted lesson ∧ ∃ t, step lesson = .next t := ⟨lesson_accounted, _, rfl⟩

/-- SpeechAccounted looks at lanes, handles and the next entry number alone. -/
theorem accounted_congr {s t : State} (h : SpeechAccounted s) (hl : ∀ i, t.lane i = s.lane i)
    (hh : ∀ g, t.handle g = s.handle g) (hn : t.nextEntryId = s.nextEntryId) : SpeechAccounted t := by
  obtain ⟨h1, h2, h3, h4, h5, h6, h7⟩ := h
  refine ⟨?_, ?_, ?_, ?_, ?_, ?_, ?_⟩
  · intro i; rw [hl, hn]; exact h1 i
  · intro i; rw [hl]; exact h2 i
  · rw [hl]; exact h3
  · intro k; rw [hl, hl]; exact h4 k
  · intro k; rw [hl]; exact h5 k
  · intro g; rw [hh]; simp only [namedIn, hl]; exact h6 g
  · intro g; rw [hh]; exact h7 g

/-- The five lanes. -/
def everyLane : List LaneId := [.system, .prompt .a, .prompt .b, .echo .a, .echo .b]

theorem mem_everyLane (i : LaneId) : i ∈ everyLane := by rcases i with _ | k | k <;> first | decide | (cases k <;> decide)

/-- On a written-out state SpeechAccounted can be decided lane by lane. -/
theorem accounted_of {s : State}
    (h : (∀ i ∈ everyLane, (∀ e ∈ s.lane i, e.id < s.nextEntryId) ∧ ((s.lane i).map (·.id)).Nodup)
      ∧ (∀ e ∈ s.lane .system, e.seat = none)
      ∧ (∀ k ∈ [Seat.a, .b], (∀ e ∈ s.lane (.prompt k) ++ s.lane (.echo k), e.seat = some k ∨ e.seat = none)
          ∧ ∀ e ∈ s.lane (.echo k), ∀ h, e.content ≠ .phrase h)
      ∧ ∀ h, (s.handle h).references = namedIn s .system h + (namedIn s (.prompt .a) h + namedIn s (.prompt .b) h)
          ∧ ((s.handle h).state = .empty → (s.handle h).references = 0)) : SpeechAccounted s := by
  obtain ⟨h1, h2, h3, h4⟩ := h
  have h3 : ∀ k, _ := fun k => h3 k (by cases k <;> decide)
  exact ⟨fun i => (h1 i (mem_everyLane i)).1, fun i => (h1 i (mem_everyLane i)).2, h2, fun k => (h3 k).1,
    fun k => (h3 k).2, fun h => (h4 h).1, fun h => (h4 h).2⟩

/-! ## Hypotheses: frames -/

theorem test_hyps_PortIdle : PortIdle lesson := ⟨rfl, rfl⟩

theorem test_hyps_ShortFrameChangesNothing :
    (let s := openFrame lesson; s.port.lcsLow = true ∧ s.port.frame = .receiving)
    ∧ (let s := afterReset (openFrame lesson); s.port.lcsLow = true ∧ s.port.frame = .waiting) := by decide +kernel

theorem test_hyps_UnknownCommandChangesNothing : (0x05 : Byte) ∉ Config.lessonCodes ∧ PortIdle lesson :=
  ⟨by decide, rfl, rfl⟩

theorem test_hyps_RequestTakesEffectAtFrameEnd :
    PortIdle lesson
    ∧ ∀ i ∈ [Instr.unknownCommand .request 0x47, .resetPart .request, .loadWord .request (two 4) [],
        .readReports .request 17 { met := [], first := .b, leaveBetween := true, leavesFirst := .a },
        .startSeat .request 2], stageOf i = some .request ∧ ∃ t, exec i lesson = .next t := by
  refine ⟨⟨rfl, rfl⟩, fun i hi => ?_⟩
  simp only [List.mem_cons, List.not_mem_nil, or_false] at hi
  rcases hi with h | h | h | h | h <;> subst h <;> exact ⟨rfl, _, rfl⟩

/-- The first value out of each range, and the last length that is too short. -/
theorem test_hyps_MalformedRequestsChangeNothing :
    PortIdle lesson ∧ 128 ≤ (128 : Byte).toNat ∧ 2 ≤ (2 : Byte).toNat ∧ 5 ≤ (5 : Byte).toNat ∧ 48 ≤ (48 : Byte).toNat
    ∧ 3 ≤ (3 : Byte).toNat ∧ ((8 : Byte).toNat ≥ 8 ∧ (8 : Byte) ≠ 255)
    ∧ ((7 : Byte).toNat < 8 ∧ 48 ≤ (48 : Byte).toNat ∧ (48 : Byte) ≠ 255)
    ∧ (128 ≤ (254 : Byte).toNat ∧ (254 : Byte) ≠ 255) ∧ (lesson.word 2).enabled = false
    ∧ (List.replicate 64 (0 : Byte)).length = 64
    ∧ (wordOf (two 22)).toNat = 5 + (List.replicate 17 (1 : Byte)).length ∧ 16 < (List.replicate 17 (1 : Byte)).length
    ∧ (∀ c ∈ [(0 : Byte), 28], ∃ x ∈ [1, c], x = 0 ∨ 28 ≤ x.toNat)
    ∧ (wordOf (two 260)).toNat = 2 + 2 * (List.replicate 129 ((1 : Byte), (1 : Byte))).length
    ∧ 128 < (List.replicate 129 ((1 : Byte), (1 : Byte))).length ∧ ((0 : Byte) ≠ 1 ∧ (0 : Byte) ≠ 2)
    ∧ (wordOf (two 4)).toNat < 5 ∧ (wordOf (two 1)).toNat < 2 ∧ (wordOf (two 3)).toNat % 2 = 1
    ∧ [(1 : Byte)].length ≤ 1 ∧ 0 < [(1 : Byte)].length := by
  refine ⟨⟨rfl, rfl⟩, ?_⟩
  decide +kernel

/-- The values next to each range of R99. -/
theorem test_hyps_badItem :
    ∀ i ∈ [((0 : Byte), (1 : Byte)), (7, 0), (1, 0), (1, 28), (2, 64), (3, 0), (4, 16), (5, 1), (6, 255)],
      badItem i.1 i.2 := by
  simp [badItem]

theorem test_hyps_LoadKeymapSetsTheMatrix :
    PortIdle lesson
    ∧ (∀ c ∈ (Vector.replicate 64 (0 : Byte) |>.set 0 27 |>.set 1 32 |>.set 2 36 |>.set 3 40 |>.set 4 47).toList,
        c.toNat ≤ 27 ∨ (32 ≤ c.toNat ∧ c.toNat ≤ 36) ∨ (40 ≤ c.toNat ∧ c.toNat ≤ 47))
    ∧ (∀ x ∈ [28, 31, 37, 39, 48], ∃ c ∈ (Vector.replicate 64 (0 : Byte) |>.set 63 x).toList,
        (28 ≤ c.toNat ∧ c.toNat ≤ 31) ∨ (37 ≤ c.toNat ∧ c.toNat ≤ 39) ∨ 48 ≤ c.toNat) :=
  ⟨⟨rfl, rfl⟩, by decide +kernel, by decide +kernel⟩

/-! ## Hypotheses: deck, phrases, speech -/

theorem nobody_uses (w : WordIndex) :
    ∀ k, (lesson.seat k).currentWord ≠ some w ∧ ∀ p, (lesson.seat k).pendingResult = some p → p.result.word ≠ w := by
  intro k
  cases k <;> exact ⟨fun h => (nomatch h), fun p h => (nomatch h)⟩

theorem test_hyps_LoadWordWritesTheRecord :
    PortIdle lesson ∧ 1 ≤ (List.replicate 16 (27 : Byte)).length ∧ (List.replicate 16 (27 : Byte)).length ≤ 16
    ∧ (∀ c ∈ List.replicate 16 (27 : Byte), 1 ≤ c.toNat ∧ c.toNat ≤ 27) ∧ (wordOf (two 21)).toNat = 5 + 16
    ∧ ∀ k, (lesson.seat k).currentWord ≠ some 127 ∧ ∀ p, (lesson.seat k).pendingResult = some p → p.result.word ≠ 127 :=
  ⟨⟨rfl, rfl⟩, by decide, by decide, by decide, by decide, nobody_uses 127⟩

theorem test_hyps_WordInUseIsRefused :
    PortIdle (typing []) ∧ 1 ≤ (spell "a").length ∧ (spell "a").length ≤ 16
    ∧ (∀ c ∈ spell "a", 1 ≤ c.toNat ∧ c.toNat ≤ 27) ∧ (wordOf (two 6)).toNat = 5 + (spell "a").length
    ∧ ((typing []).seat .a).currentWord = some 0
    ∧ ∃ p, ((lesson.mapSeat .b fun c => { c with pendingResult := some someResult }).seat .b).pendingResult = some p
        ∧ p.result.word = 0 :=
  ⟨⟨rfl, rfl⟩, by decide +kernel, by decide +kernel, by decide +kernel, by decide +kernel, rfl, someResult, rfl, rfl⟩

theorem test_hyps_RecordReadsShowWhatStands :
    PortIdle lesson ∧ (lesson.word 0).letters.length ≤ 16 ∧ (lesson.handle 0).chain.length ≤ 8 :=
  ⟨⟨rfl, rfl⟩, by decide +kernel, by decide +kernel⟩

theorem test_hyps_PickTakesTheLowest :
    pickCandidates .a lesson ≠ [] ∧ (1 : WordIndex) ∈ pickCandidates .a lesson ∧ (typing []).deck = lesson.deck
    ∧ ((typing []).seat .a).previousWord = (lesson.seat .a).previousWord := by decide +kernel

theorem test_hyps_SetProgressWritesOneRecord :
    PortIdle lesson
    ∧ ∀ k, (lesson.seat k).currentWord ≠ some 1 ∧ ∀ p, (lesson.seat k).pendingResult = some p → p.result.word ≠ 1 :=
  ⟨⟨rfl, rfl⟩, nobody_uses 1⟩

/-- 128 items are the most, and need 8 pages; one page short and an occupied handle are refused. -/
theorem test_hyps_WritePhraseStoresTheItems :
    PortIdle lesson ∧ PagesAccounted lesson ∧ 1 ≤ (List.replicate 128 (Item.cue 15)).length
    ∧ (List.replicate 128 (Item.cue 15)).length ≤ 128 ∧ (∀ i ∈ List.replicate 128 (Item.cue 15), itemOk i = true)
    ∧ (wordOf (two 258)).toNat = 2 + 2 * 128 ∧ (lesson.handle 47).state = .empty ∧ 8 ≤ lesson.phrases.free.length
    ∧ (lesson.handle 0).state ≠ .empty
    ∧ (let s := { lesson with
         phrases :=
           { pages := lesson.phrases.pages, free := [63],
             handles := lesson.phrases.handles.set 2
               { state := .kept, itemCount := 1, chain := (List.range 61).map fun i => Fin.ofNat 64 (i + 2), references := 0 } } }
       PagesAccounted s ∧ (s.handle 47).state = .empty ∧ s.phrases.free.length < 2) := by
  refine ⟨⟨rfl, rfl⟩, ⟨?_, ?_, ?_⟩, ?_, ?_, ?_, ?_, ?_, ?_, ?_, ⟨?_, ?_, ?_⟩, ?_, ?_⟩
  all_goals decide +kernel

theorem test_hyps_FreePhraseReturnsThePages :
    PortIdle lesson ∧ (lesson.handle 0).state = .kept ∧ (lesson.handle 0).references = 0
    ∧ (lesson.handle 1).state = .oneShot ∧ (lesson.handle 47).state = .empty
    ∧ ((lesson.setHandle 0 { keptPhrase with references := 1 }).handle 0).references ≠ 0
    ∧ ((lesson.setHandle 0 { keptPhrase with state := .releasing }).handle 0).state = .releasing := by
  refine ⟨⟨rfl, rfl⟩, ?_⟩
  decide +kernel

/-- Room at its last place and no room, for both kinds of lane. -/
theorem test_hyps_SayJoinsItsLane :
    PortIdle (sound lesson) ∧ LinesFollow (sound lesson) ∧ ((sound lesson).handle 1).state = .oneShot
    ∧ ((sound lesson).handle 2).state = .empty ∧ (sound lesson).link.inFlight = none
    ∧ (sound lesson).lane .system = [] ∧ ((sound lesson).seat .a).state = .off
    ∧ ((sound (lesson.setLane .system (List.replicate 3 (entry (.cue 0) none 0 .queued false)))).lane .system).length < 4
    ∧ 4 ≤ ((sound (lesson.setLane .system (List.replicate 4 (entry (.cue 0) none 0 .queued false)))).lane .system).length
    ∧ ((sound (typing [])).seat .a).state ≠ .off ∧ ((sound (typing [])).handle 0).state = .kept
    ∧ ((sound ((typing []).setLane (.prompt .a) [entry (.cue 0) (some .a) 0 .queued false])).lane (.prompt .a)).length < 2
    ∧ 2 ≤ ((sound ((typing []).setLane (.prompt .a)
        (List.replicate 2 (entry (.cue 0) (some .a) 0 .queued false)))).lane (.prompt .a)).length := by
  refine ⟨sound_idle rfl, sound_lines _, ?_⟩
  decide +kernel

/-! ## Hypotheses: seats -/

/-- Seat A in a state. -/
def stateA (x : SeatState) : State :=
  sound (lesson.mapSeat .a fun c => { c with state := x, currentWord := some 0 })

theorem stateA_sound (x : SeatState) : PortIdle (stateA x) ∧ LinesFollow (stateA x) ∧ ImagesFollow (stateA x) :=
  ⟨sound_idle rfl, sound_lines _, sound_images _⟩

theorem test_hyps_SetSeatWritesTheSettings :
    PortIdle (stateA .idle) ∧ (1 : Byte) ≠ 0 ∧ ((stateA .off).seat .a).state = .off
    ∧ ((stateA .idle).seat .a).state = .idle ∧ ((stateA .present).seat .a).state ≠ .off
    ∧ ((stateA .present).seat .a).state ≠ .idle := by
  refine ⟨(stateA_sound _).1, ?_⟩
  decide +kernel

theorem test_hyps_StartSeatBringsIntoUse :
    (PortIdle (stateA .off) ∧ LinesFollow (stateA .off) ∧ ImagesFollow (stateA .off))
    ∧ ((stateA .off).seat .a).state = .off ∧ ((stateA .idle).seat .a).state ≠ .off := by
  refine ⟨stateA_sound _, ?_⟩
  decide +kernel

/-- Seat A in IDLE with one letter waiting, and every setting off that would act on it. -/
def letterWaits : State :=
  sound ({ lesson with keyQueues := { lesson.keyQueues with a := [{ code := 27, kind := .press, stamp := 1, overrun := true }] } }.mapSeat
    .a fun c => { c with state := .idle, settings := { c.settings with flush := false, bargeIn := false, echo := false } })

/-- Seat A in a word with its prompt queued or streaming, two SAYs behind it and a letter echo. -/
def abandoning (flying : Bool) : State :=
  let e (id : Nat) (content : Content) (origin : SpeechOrigin) : SpeechEntry :=
    { id := id, content := content, origin := origin, seat := some .a, channel := none, tag := 0, state := .queued,
      cutPending := false }
  let prompt := { e 0 (.phrase 0) .drillPrompt with state := if flying then .streaming else .queued }
  let t := (lesson.setHandle 0 { keptPhrase with references := 3 }).mapSeat .a fun c =>
    { c with state := .entry, currentWord := some 1, presentationPrompt := some 0 }
  sound { t with
    nextEntryId := 4,
    lanes :=
      { t.lanes with
        prompt := { t.lanes.prompt with a := [prompt, e 1 (.phrase 0) .lessonSay, e 2 (.phrase 0) .lessonSay] },
        echo := { t.lanes.echo with a := [e 3 (.letter 1) .drillEcho] } },
    link :=
      { t.link with
        inFlight := if flying then some { lane := .prompt .a, serial := 0, position := 1, expansion := none } else none } }

theorem abandoning_accounted (flying : Bool) : SpeechAccounted (abandoning flying) :=
  accounted_of (by cases flying <;> decide +kernel)

theorem test_hyps_NextWordPresentsTheWord_idle :
    (PortIdle (stateA .idle) ∧ LinesFollow (stateA .idle) ∧ ImagesFollow (stateA .idle))
    ∧ ((stateA .idle).seat .a).state = .idle ∧ (stateA .idle).keyQueue .a = [] ∧ ((stateA .idle).word 0).enabled = true
    ∧ ((stateA .idle).word 0).prompt = some 0 ∧ ((stateA .idle).handle 0).state = .kept
    ∧ ((stateA .idle).lane (.prompt .a)).length < 4
    ∧ (PortIdle letterWaits ∧ LinesFollow letterWaits ∧ ImagesFollow letterWaits)
    ∧ letterWaits.keyQueue .a = [{ code := 27, kind := .press, stamp := 1, overrun := true }]
    ∧ (letterWaits.seat .a).settings.flush = false ∧ (letterWaits.seat .a).settings.check = .whole
    ∧ ((stateA .idle).word 1).enabled = true ∧ ((stateA .idle).word 1).prompt = none
    ∧ (stateA .idle).reports.queue.length < 16
    ∧ (let s := (stateA .idle).setLane (.prompt .a) (List.replicate 4 (entry (.cue 0) (some .a) 0 .queued false))
       (s.word 0).prompt = some 0 ∧ 4 ≤ (s.lane (.prompt .a)).length)
    ∧ pickWord .a (stateA .idle) = some 0 ∧ ((stateA (.review .final)).seat .a).state ≠ .idle
    ∧ ((stateA (.review .final)).seat .a).state ≠ .present ∧ ((stateA (.review .final)).seat .a).state ≠ .entry
    ∧ (0 : Byte) = byteOf (0 : WordIndex).val ∧ ((stateA (.review .final)).word 0).enabled = true := by
  refine ⟨stateA_sound _, ?_, ?_, ?_, ?_, ?_, ?_, ⟨sound_idle rfl, sound_lines _, sound_images _⟩, ?_⟩
  all_goals decide +kernel

theorem test_hyps_NextWordPresentsTheWord_abandon :
    (∀ f, PortIdle (abandoning f) ∧ LinesFollow (abandoning f) ∧ ImagesFollow (abandoning f)
      ∧ SpeechAccounted (abandoning f))
    ∧ (∀ f : Bool, ((abandoning f).seat .a).state = .entry ∧ ((abandoning f).word 0).enabled = true
        ∧ ((abandoning f).word 0).prompt = some 0 ∧ ((abandoning f).handle 0).state = .kept
        ∧ ((abandoning f).seat .a).settings.flush = true ∧ ((abandoning f).seat .a).reviewFeedback = none
        ∧ ((abandoning f).lane (.prompt .a)).tail.length ≤ 2
        ∧ (∀ x ∈ ((abandoning f).lane (.prompt .a)).tail, x.origin = .lessonSay)
        ∧ (∀ e ∈ ((abandoning f).lane (.prompt .a)).take 1, e.origin = .drillPrompt ∧ e.seat = some .a ∧ e.tag = 0
            ∧ e.content = .phrase 0 ∧ e.state = if f then .streaming else .queued)
        ∧ ((abandoning f).lane (.prompt .a)).length = 3
        ∧ (∀ x ∈ (abandoning f).lane (.echo .a),
            x.state = .queued ∧ x.seat = some .a ∧ x.origin = .drillEcho ∧ x.tag = 0))
    ∧ (abandoning false).link.inFlight = none
    ∧ (abandoning true).link.inFlight = some { lane := .prompt .a, serial := 0, position := 1, expansion := none } := by
  refine ⟨fun f => ⟨sound_idle (by cases f <;> rfl), sound_lines _, sound_images _, abandoning_accounted f⟩, ?_⟩
  decide +kernel

/-- Seat A in a state with an empty deck, and one report place left. -/
def emptyDeck (x : SeatState) : State :=
  sound { lesson with
    deck := Deck.reset, seats := { lesson.seats with a := { lesson.seats.a with state := x } },
    reports := { lesson.reports with queue := fullQueue.tail } }

theorem test_hyps_NextWordPresentsTheWord_empty :
    (∀ x, PortIdle (emptyDeck x) ∧ LinesFollow (emptyDeck x) ∧ ImagesFollow (emptyDeck x))
    ∧ (∀ x ∈ [SeatState.idle, .present, .entry],
        ((emptyDeck x).seat .a).state = x ∧ (∀ w, ((emptyDeck x).word w).enabled = false)
        ∧ (emptyDeck x).reports.queue.length < 16 ∧ (emptyDeck x).lane (.prompt .a) = []
        ∧ (emptyDeck x).lane (.echo .a) = [] ∧ (emptyDeck x).link.inFlight = none)
    ∧ SpeechAccounted (emptyDeck .entry) := by
  refine ⟨fun x => ⟨sound_idle rfl, sound_lines _, sound_images _⟩, by decide +kernel, ?_⟩
  exact accounted_congr lesson_accounted (fun i => by simp [emptyDeck, sound, State.lane])
    (fun h => by simp [emptyDeck, sound, State.handle]) (by simp [emptyDeck, sound])

/-- A key entry. -/
def pressed (code : Byte) : KeyEntry := { code := code, kind := .press, stamp := 1, overrun := false }

/-- Seat A paused as GONE on word 0, barge-in and echo off, with keys waiting. -/
def resting (point : ResumePoint) (feedback : Option Nat) (pending : Option PendingResult) (autoNext : Bool)
    (keys : List KeyEntry) : State :=
  sound ({ lesson with keyQueues := { lesson.keyQueues with a := keys } }.mapSeat .a fun c =>
    { c with
      state := .paused .gone point, currentWord := some 0, reviewFeedback := feedback, pendingResult := pending,
      settings := { c.settings with bargeIn := false, echo := false, autoNext := autoNext } })

theorem test_hyps_PauseAndResumeKeepThePlace :
    (∀ x, PortIdle (stateA x) ∧ LinesFollow (stateA x) ∧ ImagesFollow (stateA x))
    ∧ ((stateA (.review .retry)).seat .a).state = resumedState (.review .retry)
    ∧ ((stateA (.paused .child .entry)).seat .a).state = .paused .child .entry
    ∧ ((stateA .idle).seat .a).state = .idle ∧ ∀ r point, ((stateA .idle).seat .a).state ≠ .paused r point := by
  refine ⟨stateA_sound, by decide +kernel, by decide +kernel, by decide +kernel, fun r p => ?_⟩
  have : ((stateA .idle).seat .a).state = .idle := by decide +kernel
  rw [this]
  simp

theorem test_hyps_PauseAndResumeKeepThePlace_resume :
    (∀ p f r a q, PortIdle (resting p f r a q) ∧ LinesFollow (resting p f r a q) ∧ ImagesFollow (resting p f r a q))
    ∧ (∀ p ∈ [ResumePoint.present, .entry, .review .retry, .review .final], ∀ f ∈ [none, some 0],
        ∀ r ∈ [none, some someResult], ∀ a : Bool, ∀ q ∈ [[], [pressed 27]],
        let s := resting p f r a q
        (s.seat .a).state = .paused .gone p ∧ (s.seat .a).reviewFeedback = f ∧ (s.seat .a).pendingResult = r
          ∧ (s.seat .a).settings.autoNext = a ∧ s.keyQueue .a = q ∧ (s.seat .a).line.length < 20
          ∧ (s.seat .a).settings.bargeIn = false ∧ (s.seat .a).settings.echo = false
          ∧ (s.seat .a).settings.check = .whole ∧ (s.seat .a).settings.flush = true)
    ∧ (let s := resting (.review .final) none none true [pressed 27]
       pickWord .a s = some 0 ∧ (s.word 0).prompt = some 0 ∧ (s.handle 0).state = .kept
         ∧ (s.lane (.prompt .a)).length < 4) := by
  refine ⟨fun p f r a q => ⟨sound_idle rfl, sound_lines _, sound_images _⟩, ?_⟩
  decide +kernel

/-- Seat A in ENTRY with a tagged SAY and an echo waiting, and perhaps one of its entries, or an orphan, in flight before
them. -/
def stopping (flying : Option (Bool × SpeechEntry)) : State :=
  let waits (id : Nat) (content : Content) (tag : Byte) : SpeechEntry :=
    { id := id, content := content, origin := .lessonSay, seat := some .a, channel := none, tag := tag, state := .queued,
      cutPending := false }
  let ahead (prompt : Bool) : List SpeechEntry :=
    match flying with
    | some (b, e) => if b = prompt then [e] else []
    | none => []
  let t := (lesson.setHandle 0 { keptPhrase with references := 1 }).mapSeat .a fun c =>
    { c with state := .entry, currentWord := some 0, pendingResult := some someResult }
  sound { t with
    nextEntryId := 3,
    lanes :=
      { t.lanes with
        prompt := { t.lanes.prompt with a := ahead true ++ [waits 1 (.phrase 0) 5] },
        echo := { t.lanes.echo with a := ahead false ++ [waits 2 (.letter 1) 0] } },
    link :=
      { t.link with
        inFlight :=
          flying.map fun x =>
            { lane := if x.1 then .prompt .a else .echo .a, serial := 0, position := 1, expansion := none } } }

/-- An echo in flight, with its seat or as an orphan. -/
def flyer (seat : Option Seat) (x : EntryState) : SpeechEntry := entry (.letter 2) seat 0 x false

theorem stopping_sound (f : Option (Bool × SpeechEntry)) : PortIdle (stopping f) ∧ LinesFollow (stopping f) :=
  ⟨sound_idle rfl, sound_lines _⟩

theorem test_hyps_StopSeatClearsTheSeat :
    (∀ f, PortIdle (stopping f) ∧ LinesFollow (stopping f))
    ∧ SpeechAccounted (stopping none) ∧ SpeechAccounted (stopping (some (true, flyer (some .a) .streaming)))
    ∧ SpeechAccounted (stopping (some (false, flyer none .draining)))
    ∧ ((stopping none).seat .a).state ≠ .off ∧ ((stateA .off).seat .a).state = .off
    ∧ (stopping none).link.inFlight = none
    ∧ (∀ e ∈ (stopping none).lane (.prompt .a) ++ (stopping none).lane (.echo .a),
        e.state = .queued ∧ e.seat = some .a ∧ e.channel = none) := by
  refine ⟨stopping_sound, accounted_of ?_, accounted_of ?_, accounted_of ?_, ?_⟩
  all_goals decide +kernel

theorem test_hyps_StopSeatClearsTheSeat_lane :
    ∀ f ∈ [(true, flyer (some .a) .streaming), (false, flyer none .draining)],
      let s := stopping (some f)
      s.link.inFlight
          = some { lane := if f.1 then .prompt .a else .echo .a, serial := 0, position := 1, expansion := none }
        ∧ (if f.1 then s.lane (.prompt .a) else s.lane (.echo .a)).head? = some f.2 ∧ f.2.state ≠ .queued
        ∧ (f.2.seat = some .a ∨ f.2.seat = none)
        ∧ (∀ e ∈ (if f.1 then s.lane (.prompt .a) else s.lane (.echo .a)).tail,
            e.state = .queued ∧ e.seat = some .a ∧ e.channel = none)
        ∧ (∀ e ∈ if f.1 then s.lane (.echo .a) else s.lane (.prompt .a),
            e.state = .queued ∧ e.seat = some .a ∧ e.channel = none) := by
  decide +kernel

/-- Every state of a seat, with and without keys waiting. -/
theorem test_hyps_ReadSeatShowsTheContext : ∀ p f r a q, PortIdle (resting p f r a q) := fun _ _ _ _ _ => sound_idle rfl

/-! ## Hypotheses: reports -/

/-- No step meets the frame end; seat B goes first. -/
def plainRoom : RoomOrder := { met := [], first := .b, leaveBetween := true, leavesFirst := .a }

theorem test_hyps_ReadReportsTakesWholeRecords :
    PortIdle (sound lesson) ∧ LinesFollow (sound lesson) ∧ (∀ k, ((sound lesson).seat k).pendingResult = none)
    ∧ plainRoom.met = [] ∧ 1 + 16 * (sound lesson).reports.queue.length ≤ 1 := by
  refine ⟨sound_idle rfl, sound_lines _, fun k => ?_, rfl, by decide +kernel⟩
  cases k <;> decide +kernel

/-- A seat that holds a result of its own in REVIEW(FINAL) or a pause of it. -/
def holder (k : Seat) (x : SeatState) (feedback : Option Nat) (autoNext : Bool) : SeatContext :=
  { lesson.seats.a with
    state := x, currentWord := some 0, pendingResult := some { someResult with result := { someResult.result with seat := k } },
    reviewFeedback := feedback, settings := { lesson.seats.a.settings with autoNext := autoNext } }

/-- A full report queue, seat A holding, and a tagged SAY of the system lane in flight. -/
def holding (x : SeatState) (feedback : Option Nat) (autoNext : Bool) (b : SeatContext) : State :=
  let t := speaking .system (entry (.phrase 0) none 9 .draining false) 3 true lesson
  sound { t with
    seats := { a := holder .a x feedback autoNext, b := b }, reports := { lesson.reports with queue := fullQueue } }

theorem test_hyps_RoomLetsAHoldingSeatPost :
    (∀ x f a b, PortIdle (holding x f a b) ∧ LinesFollow (holding x f a b) ∧ ImagesFollow (holding x f a b)
      ∧ (holding x f a b).reports.queue.length = 16)
    ∧ (∀ x ∈ [SeatState.review .final, .paused .lesson (.review .final)], ∀ f ∈ [none, some 0],
        let s := holding x f false SeatContext.reset
        (s.seat .a).state = x ∧ (s.seat .a).pendingResult = some someResult ∧ (s.seat .a).reviewFeedback = f
          ∧ (s.seat .a).settings.autoNext = false ∧ (s.seat .b).pendingResult = none ∧ s.link.fetched = true
          ∧ s.link.inFlight = some { lane := .system, serial := 7, position := 3, expansion := none }
          ∧ s.lane .system = [entry (.phrase 0) none 9 .draining false] ∧ (s.handle 0).state = .kept)
    ∧ someResult.result.seat = .a
    ∧ (let s := holding (.review .final) (some 0) true (holder .b (.paused .child (.review .final)) (some 1) true)
       (s.seat .a).state = .review .final ∧ (s.seat .a).pendingResult.isSome ∧ (s.seat .b).pendingResult.isSome
         ∧ (s.seat .b).state = .paused .child (.review .final) ∧ (s.seat .b).reviewFeedback = some 1) := by
  refine ⟨fun x f a b => ⟨sound_idle rfl, sound_lines _, sound_images _, by simp [holding, sound, fullQueue]⟩, ?_⟩
  decide +kernel

theorem test_hyps_ReportReadsAndClearFault :
    let s := sound { lesson with reports := { lesson.reports with fault := some someFault } }
    (PortIdle (sound lesson) ∧ LinesFollow (sound lesson) ∧ (sound lesson).reports.fault = none)
      ∧ PortIdle s ∧ LinesFollow s ∧ s.reports.fault = some someFault :=
  ⟨⟨sound_idle rfl, sound_lines _, by decide +kernel⟩, sound_idle rfl, sound_lines _, by decide +kernel⟩

theorem test_hyps_SetCausesStoresAndWorksOut :
    PortIdle (sound lesson) ∧ LinesFollow (sound lesson) ∧ wordOf (two 1) ≠ 0 ∧ wordOf (two 0) = 0 :=
  ⟨sound_idle rfl, sound_lines _, by decide, by decide⟩

/-- A clearing READ COUNTERS whose reply is out, its frame open, and some counts later: a counter that stood at 65535, one
that reached it on the way, and one that counted below it. -/
def tallied (flags : Byte) : State :=
  let t := sound
    { lesson with
      lostKeys := { a := { value := 65535, beyond := 4 }, b := { value := 65534, beyond := 0 } },
      link := { lesson.link with stales := { value := 7, beyond := 0 } } }
  let u := lessonFrame .request (.readCounters .request flags) t
  { u with
    lostKeys := { a := u.lostKeys.a.count.count.count, b := u.lostKeys.b.count.count.count },
    link := { u.link with stales := u.link.stales.count.count } }

theorem test_hyps_ReadCountersShowsAndClears :
    PortIdle lesson ∧ (2 : Byte).getLsbD 0 = false ∧ (1 : Byte).getLsbD 0 = true
    ∧ ∀ flags ∈ [(1 : Byte), 2],
        (tallied flags).port.lcsLow = true
        ∧ ∃ shown, (tallied flags).port.frame = .complete (.readCounters .request flags) none shown := by
  refine ⟨⟨rfl, rfl⟩, by decide, by decide, fun flags hf => ?_⟩
  simp only [List.mem_cons, List.not_mem_nil, or_false] at hf
  rcases hf with rfl | rfl <;> exact ⟨rfl, _, rfl⟩

/-- A counter keeps exactly what its clearing reply did not show, at 65535 too (R162). -/
theorem test_clearing_keeps_the_counts_since_the_reply :
    let kept (flags : Byte) : State := endFrame (tallied flags)
    (kept 1).lostKeys = { a := { value := 3, beyond := 0 }, b := { value := 3, beyond := 0 } }
    ∧ (kept 1).link.stales = { value := 2, beyond := 0 } ∧ (kept 2).lostKeys = (tallied 2).lostKeys := by
  decide +kernel

/-- The head is T_age old at its first millisecond, and was not one before. -/
theorem test_hyps_AgedBecomesPending :
    let s (clock : Word32) (tAge : Word16) : State :=
      sound { lesson with clock := clock, reports := { lesson.reports with queue := fullQueue, tAge := tAge } }
    (∀ c a, LinesFollow (s c a) ∧ (s c a).reports.queue = fullQueue)
    ∧ ((s 200 200).reports.tAge ≠ 0 ∧ (s 200 200).reports.tAge.toNat ≤ ((s 200 200).clock - 0).toNat)
    ∧ ((s 199 200).clock - 0).toNat < (s 199 200).reports.tAge.toNat ∧ (s 199 0).reports.tAge = 0 := by
  refine ⟨fun c a => ⟨sound_lines _, by simp [sound]⟩, ?_⟩
  decide +kernel

theorem test_hyps_OfferedRecordJoinsOrIsLost :
    ({ lesson with reports := { lesson.reports with queue := fullQueue.tail } } : State).reports.queue.length < 16
    ∧ 16 ≤ ({ lesson with reports := { lesson.reports with queue := fullQueue } } : State).reports.queue.length := by
  decide

/-! ## Hypotheses: speech link -/

/-- A SAY of the system lane in flight with its response timer due. -/
def sayFlies (x : EntryState) (tag : Byte) (queue : List Record) : State :=
  let t := speaking .system (entry (.phrase 0) none tag x false) 3 true (lesson.setHandle 0 { keptPhrase with references := 1 })
  sound { t with reports := { t.reports with queue := queue } }

theorem test_hyps_FetchIdlesRepeatsOrStartsAfresh :
    LinesFollow (sound lesson) ∧ (sound lesson).link.inFlight = none ∧ (∀ i, ¬ Offers (sound lesson) i)
    ∧ ((2 : Byte).getLsbD 1 = true ∨ (sound lesson).link.sequence ≠ some ((1 : Byte).getLsbD 0))
    ∧ (let s := sound (speaking .system (entry (.phrase 0) none 1 .streaming false) 1 true lesson)
       LinesFollow s ∧ (0 : Byte).getLsbD 1 = false ∧ s.link.sequence = some ((0 : Byte).getLsbD 0)) := by
  have hn : ∀ i, (sound lesson).lane i = [] := by
    intro i
    cases i with
    | system => decide +kernel
    | prompt k => cases k <;> decide +kernel
    | echo k => cases k <;> decide +kernel
  refine ⟨sound_lines _, by decide +kernel, ?_, .inl (by decide), sound_lines _, by decide, by decide +kernel⟩
  intro i
  cases i <;> simp [Offers, hn]

/-- A SAY of the system lane in flight, tagged or not, the report queue full or not; nothing offers once it is gone. -/
theorem test_hyps_FetchIdlesRepeatsOrStartsAfresh_fresh :
    (2 : Byte).getLsbD 1 = true
    ∧ (∀ x tag q, LinesFollow (sayFlies x tag q))
    ∧ (∀ x ∈ [EntryState.streaming, .draining], ∀ tag ∈ [(0 : Byte), 9], ∀ q ∈ [[], fullQueue],
        let s := sayFlies x tag q
        s.link.inFlight = some { lane := .system, serial := 7, position := 3, expansion := none }
          ∧ s.lane .system = [entry (.phrase 0) none tag x false] ∧ (s.handle 0).state = .kept ∧ x ≠ .queued
          ∧ s.reports.queue = q ∧ s.link.responseTimer = some 0)
    ∧ ∀ i, ¬ Offers (systemSpoken .lost (entry (.phrase 0) none 9 .streaming false) [] 0 (sayFlies .streaming 9 [])) i := by
  refine ⟨by decide, fun x tag q => sound_lines _, by decide +kernel, fun i => ?_⟩
  rw [← laneOffers_iff]
  exact (by decide +kernel : ∀ i ∈ everyLane,
    ¬ laneOffers i (systemSpoken .lost (entry (.phrase 0) none 9 .streaming false) [] 0 (sayFlies .streaming 9 [])) = true)
    i (mem_everyLane i)

/-- A head that offers in the system lane, in the pointed seat's lane, in the other seat's. -/
theorem test_hyps_FetchStartsThePointedSeat :
    let s (i : LaneId) (k : Option Seat) := sound (speaking i (entry (.letter 1) k 0 .queued false) 1 false (typing []))
    (∀ i k, LinesFollow (s i k))
    ∧ (∀ x ∈ [(LaneId.system, none), (.echo .a, some Seat.a), (.prompt .b, some .b)],
        (s x.1 x.2).link.inFlight = none ∧ (s x.1 x.2).link.sequence ≠ some ((1 : Byte).getLsbD 0)
        ∧ (s x.1 x.2).link.pointer = .a ∧ (s x.1 x.2).lane x.1 = [entry (.letter 1) x.2 0 .queued false]
        ∧ (entry (.letter 1) x.2 0 .queued false).channel = some .left)
    ∧ (2 : Byte).getLsbD 1 = true ∧ Offers (s .system none) .system
    ∧ Offers (s (.echo .a) (some .a)) (.echo .a) ∧ ¬ Offers (s (.echo .a) (some .a)) .system
    ∧ Offers (s (.prompt .b) (some .b)) (.prompt .b) ∧ ¬ Offers (s (.prompt .b) (some .b)) .system
    ∧ ¬ Offers (s (.prompt .b) (some .b)) (.echo .a) ∧ ¬ Offers (s (.prompt .b) (some .b)) (.prompt .a)
    ∧ ¬ Offers (s (.prompt .b) (some .b)) (.echo .b) := by
  refine ⟨fun i k => sound_lines _, by decide +kernel, by decide, ?_⟩
  simp only [← laneOffers_iff]
  decide +kernel

/-- An entry of seat A's echo lane in flight, at a position, in an expansion or not; the phrase under handle 0 begins with a
spell item. -/
def streaming (content : Content) (seat : Option Seat) (position : Nat) (x : Option Expansion) (cut : Bool) : State :=
  let t := speaking (.echo .a) (entry content seat 0 .streaming cut) position true (typing [])
  sound { t with
    phrases := { t.phrases with pages := t.phrases.pages.set 0 [.spellTarget, .sound 11] },
    link :=
      { t.link with inFlight := some { lane := .echo .a, serial := 7, position := position, expansion := x } } }

theorem test_hyps_FetchStreamsItemsAndEnds :
    (∀ c k p x cut, LinesFollow (streaming c k p x cut)) ∧ (1 : Byte).getLsbD 1 = false
    ∧ (∀ c ∈ [Content.letter 1, .cue 2, .phrase 0], ∀ k ∈ [none, some Seat.a], ∀ p ∈ [1, 2, 3],
        ∀ x ∈ [none, some { letters := [1, 2], place := 1 }, some { letters := [1, 2], place := 3 }], ∀ cut : Bool,
        let s := streaming c k p x cut
        s.link.inFlight = some { lane := .echo .a, serial := 7, position := p, expansion := x }
        ∧ s.lane (.echo .a) = [entry c k 0 .streaming cut] ∧ s.link.sequence ≠ some ((1 : Byte).getLsbD 0))
    ∧ expansionItem { letters := [1, 2], place := 1 } = some (.pause 20) ∧ 2 * [(1 : Byte), 2].length ≤ 3 + 1
    ∧ (let s := streaming (.phrase 0) (some .a) 1 none false
       (s.handle 0).itemCount = 2 ∧ phraseItem 0 1 s = some .spellTarget ∧ phraseItem 0 2 s = some (.sound 11)
         ∧ s.target .a = [3, 1, 20] ∧ (s.seat .a).line.map (·.letter) = []) := by
  refine ⟨fun c k p x cut => sound_lines _, by decide, ?_⟩
  decide +kernel

theorem test_hyps_ExpansionSpellsTheLetters :
    2 < (spell "cat").length ∧ 1 + 1 < (spell "cat").length ∧ 2 * (spell "cat").length ≤ 5 + 1 := by decide +kernel

/-- A SAY of the system lane in flight, of a handle in a state with so many references. -/
def sayDone (x : HandleState) (references : Nat) (tag : Byte) (queue : List Record) : State :=
  let t := speaking .system (entry (.phrase 0) none tag .draining false) 3 true
    (lesson.setHandle 0 { keptPhrase with state := x, references := references })
  sound { t with reports := { t.reports with queue := queue } }

/-- Seat A in a state with the phrase of its prompt, or of its review feedback, in flight. -/
def phraseDone (x : SeatState) (prompt : Bool) (pending : Option PendingResult) (autoNext : Bool) : State :=
  sound (speaking (.prompt .a) (entry (.phrase 0) (some .a) 0 .draining false) 3 true
    (lesson.mapSeat .a fun c =>
      { c with
        state := x, currentWord := some 0, presentationPrompt := if prompt then some 0 else none,
        reviewFeedback := if prompt then none else some 0, pendingResult := pending,
        settings := { c.settings with autoNext := autoNext } }))

theorem test_hyps_DoneCompletesTheUtterance_lane :
    (∀ x n tag q, LinesFollow (sayDone x n tag q))
    ∧ (∀ x ∈ [HandleState.kept, .releasing], ∀ n ∈ [1, 2], ∀ tag ∈ [(0 : Byte), 9], ∀ q ∈ [[], fullQueue],
        let s := sayDone x n tag q
        s.link.fetched = true ∧ s.link.inFlight = some { lane := .system, serial := 7, position := 3, expansion := none }
        ∧ s.lane .system = [entry (.phrase 0) none tag .draining false] ∧ (s.handle 0).state = x
        ∧ (s.handle 0).references = n ∧ s.reports.queue = q)
    ∧ (let s := sound (speaking (.echo .a) (entry (.letter 1) (some .a) 0 .draining false) 2 true (typing []))
       LinesFollow s ∧ s.link.fetched = true
         ∧ s.link.inFlight = some { lane := .echo .a, serial := 7, position := 2, expansion := none }
         ∧ s.lane (.echo .a) = [entry (.letter 1) (some .a) 0 .draining false] ∧ s.lane (.prompt .a) = []
         ∧ (s.seat .a).state = .entry ∧ s.keyQueue .a = [] ∧ (s.seat .a).presentationPrompt = none
         ∧ (s.seat .a).reviewFeedback = none) := by
  refine ⟨fun x n tag q => sound_lines _, ?_, sound_lines _, ?_⟩
  all_goals decide +kernel

theorem test_hyps_DoneCompletesTheUtterance_seat :
    (∀ x p r a, LinesFollow (phraseDone x p r a) ∧ ImagesFollow (phraseDone x p r a))
    ∧ (∀ x ∈ [SeatState.present, .paused .gone .present, .review .retry, .review .final, .paused .child (.review .retry)],
        ∀ p : Bool, ∀ r ∈ [none, some someResult], ∀ a : Bool,
        let s := phraseDone x p r a
        s.link.fetched = true
        ∧ s.link.inFlight = some { lane := .prompt .a, serial := 7, position := 3, expansion := none }
        ∧ s.lane (.prompt .a) = [entry (.phrase 0) (some .a) 0 .draining false] ∧ s.lane (.echo .a) = []
        ∧ (s.handle 0).state = .kept ∧ s.keyQueue .a = [] ∧ (s.seat .a).state = x ∧ (s.seat .a).pendingResult = r
        ∧ (s.seat .a).settings.autoNext = a ∧ (s.seat .a).presentationPrompt = (if p then some 0 else none)
        ∧ (s.seat .a).reviewFeedback = (if p then none else some 0))
    ∧ pickWord .a (phraseDone (.review .final) false none true) = some 0
    ∧ ((phraseDone (.review .final) false none true).word 0).prompt = some 0 := by
  refine ⟨fun x p r a => ⟨sound_lines _, sound_images _⟩, ?_⟩
  decide +kernel

theorem test_hyps_StaleAndUnknownRequests :
    LinesFollow (sound lesson) ∧ (sound lesson).link.fetched = false ∧ 4 ≤ (4 : Byte).toNat
    ∧ (3 : Byte) ∉ Config.speechCodes
    ∧ (let s := sound (speaking .system (entry (.phrase 0) none 9 .draining false) 3 true lesson)
       LinesFollow s ∧ s.link.fetched = true ∧ 1 ≤ (3 : Byte).toNat ∧ (3 : Byte).toNat ≤ 3
         ∧ s.link.inFlight = some { lane := .system, serial := 7, position := 3, expansion := none }) := by
  refine ⟨sound_lines _, by decide +kernel, by decide, by decide, sound_lines _, ?_⟩
  decide +kernel

/-- The SAYs of `test_hyps_FetchIdlesRepeatsOrStartsAfresh_fresh` and the phrases of
`test_hyps_DoneCompletesTheUtterance_seat` are in flight with their timer due. -/
theorem test_hyps_ResponseTimerLosesTheUtterance :
    (∀ x tag q, LinesFollow (sayFlies x tag q))
    ∧ (∀ x p r a, LinesFollow (phraseDone x p r a) ∧ ImagesFollow (phraseDone x p r a))
    ∧ (∀ x ∈ [SeatState.present, .paused .gone .present, .review .retry, .review .final], ∀ p : Bool,
        (phraseDone x p none true).link.responseTimer = some 0)
    ∧ (sayFlies .draining 9 fullQueue).link.responseTimer = some 0 ∧ (countDown (some 2)) ≠ some 0 := by
  refine ⟨fun x tag q => sound_lines _, fun x p r a => ⟨sound_lines _, sound_images _⟩, ?_⟩
  decide +kernel

/-! ## Hypotheses: display, clock, keys -/

theorem test_hyps_PointerAndReadBegin :
    (51 : Byte).toNat < 52 ∧ 52 ≤ (52 : Byte).toNat ∧ (0x3B : BitVec 7) ≠ 0x3A := by decide

theorem test_hyps_ReadEndDeliversTheGenerations :
    (let s (r : ReadState) := sound { lesson with mirror := { lesson.mirror with read := r } }
     (∀ r, LinesFollow (s r)) ∧ (s (.reading 51)).mirror.read = .reading 51
       ∧ (s (.abandoned 51 lesson.mirror.live)).mirror.read = .abandoned 51 lesson.mirror.live
       ∧ (s .none).mirror.read = .none)
    ∧ (∃ i, i < 2 ∧ (51 + i) % 52 = 0) ∧ ∀ i, i < 2 → (51 + i) % 52 ≠ 26 :=
  ⟨⟨fun r => sound_lines _, by decide +kernel, by decide +kernel, by decide +kernel⟩, ⟨1, by decide⟩, by omega⟩

theorem test_hyps_QuietTickMovesTheClock : LinesFollow (sound lesson) ∧ Quiet (sound lesson) := by
  refine ⟨sound_lines _, ⟨?_, ?_, ?_, by decide +kernel, by decide +kernel⟩⟩
  · intro m p
    have : (sound lesson).matrix m = .reset := by cases m <;> simp [sound, State.matrix] <;> rfl
    rw [this]
    simp only [MatrixState.reset, Vector.toList_replicate, List.getD_eq_getElem?_getD, List.getElem?_replicate]
    split <;> rfl
  · intro m; cases m <;> decide +kernel
  · intro k; cases k <;> decide +kernel

/-- Matrix A of a lesson with the keys of a corner, and key 0 about to complete. -/
def corner (held : Bool) : State :=
  let k := (Vector.replicate 64 KeyState.up).set 0 (.settlingDown 9)
  lesson.setMatrix .a
    { lesson.matrices.a with keys := if held then ((k.set 1 .down).set 8 .down).set 9 (.blocked 0) else k }

/-- The corner with the mash limit of its three held keys, its matrix in a condition, its seat in a state. -/
def cornered (condition : Condition) (x : SeatState) : State :=
  let s := (corner true).mapSeat .a fun c => { c with state := x }
  { s.setMatrix .a { s.matrices.a with condition := condition } with timing := { s.timing with mashLimit := 3 } }

/-- Matrix A of the lesson with four keys of one column down and key 0 about to complete, in a condition, its seat in a
state. -/
def leaned (condition : Condition) (x : SeatState) : State :=
  (lesson.setMatrix .a
    { lesson.matrices.a with
      condition := condition,
      keys :=
        (((((Vector.replicate 64 KeyState.up).set 0 (.settlingDown 9)).set 8 .down).set 16 .down).set 24 .down).set 32 .down }).mapSeat
    .a fun c => { c with state := x }

/-- Matrix A of the lesson with key 0 mapped and about to complete. -/
def mapped (code : Byte) : State :=
  lesson.setMatrix .a
    { lesson.matrices.a with
      keymap := (Vector.replicate 64 0).set 0 code, keys := (Vector.replicate 64 KeyState.up).set 0 (.settlingDown 9) }

theorem test_hyps_KeysSettleAndAreRouted :
    ((corner false).matrix .a).keys[0] = .settlingDown 9 ∧ (corner false).timing.debounce.toNat ≤ 9 + 1
    ∧ ((corner false).matrix .a).keymap[0] = 0 ∧ ghostSuspect ((corner false).matrix .a) 0 = false
    ∧ ((corner false).matrix .a).condition = .normal
    ∧ ((corner false).matrix .a).keys.toList.countP isHeld < (corner false).timing.mashLimit.toNat
    ∧ ((corner true).matrix .a).keys[0] = .settlingDown 9 ∧ ((corner true).matrix .a).diodes = false
    ∧ (∃ r c : Nat, r < 8 ∧ c < 8 ∧ r ≠ 0 / 8 ∧ c ≠ 0 % 8
        ∧ isHeld (((corner true).matrix .a).keys.toList.getD (0 / 8 * 8 + c) .up) = true
        ∧ isHeld (((corner true).matrix .a).keys.toList.getD (r * 8 + 0 % 8) .up) = true
        ∧ isHeld (((corner true).matrix .a).keys.toList.getD (r * 8 + c) .up) = true)
    ∧ ((corner true).matrix .a).keys.toList.countP isHeld < (corner true).timing.mashLimit.toNat
    ∧ (∀ q ∈ [Condition.normal, .mashed], ∀ x ∈ [SeatState.off, .review .final],
        ((cornered q x).matrix .a).keys = ((corner true).matrix .a).keys ∧ ((cornered q x).matrix .a).diodes = false
        ∧ ((cornered q x).matrix .a).condition = q ∧ (cornered q x).timing.debounce.toNat ≤ 9 + 1
        ∧ (cornered q x).timing.mashLimit.toNat ≤ ((cornered q x).matrix .a).keys.toList.countP isHeld
        ∧ ((cornered q x).seat .a).state = x ∧ ((cornered q x).keyQueue .a).length < 16)
    ∧ (∀ q ∈ [Condition.normal, .mashed], ∀ x ∈ [SeatState.off, .review .final],
        ((leaned q x).matrix .a).keys[0] = .settlingDown 9 ∧ ((leaned q x).matrix .a).condition = q
        ∧ ghostSuspect ((leaned q x).matrix .a) 0 = false
        ∧ (leaned q x).timing.mashLimit.toNat ≤ ((leaned q x).matrix .a).keys.toList.countP isHeld
        ∧ ((leaned q x).seat .a).state = x ∧ ((leaned q x).keyQueue .a).length < 16
        ∧ (∃ key ∈ ((leaned q x).matrix .a).keys.toList, key ≠ .up))
    ∧ (∀ key ∈ ({ MatrixState.reset with condition := .mashed }).keys.toList, key = .up)
    ∧ (∀ c ∈ [(27 : Byte), 32], ((mapped c).matrix .a).keys[0] = .settlingDown 9 ∧ ((mapped c).matrix .a).keymap[0] = c
        ∧ ((mapped c).matrix .a).condition = .normal ∧ ghostSuspect ((mapped c).matrix .a) 0 = false
        ∧ ((mapped c).matrix .a).keys.toList.countP isHeld < (mapped c).timing.mashLimit.toNat) := by
  refine ⟨?_, ?_, ?_, ?_, ?_, ?_, ?_, ?_, ⟨1, 1, ?_⟩, ?_, ?_, ?_, ?_, ?_⟩
  all_goals decide +kernel

/-- Seat A in a state, with a key queue one short of full, or full. -/
def crowded (x : SeatState) (full : Bool) : State :=
  { stateA x with keyQueues := { a := List.replicate (if full then 16 else 15) (pressed 27), b := [] } }

/-- The first and the last lesson key, the codes beside them, and every kind of state. -/
theorem test_hyps_KeysSettleAndAreRouted_routing :
    (∀ c ∈ [(40 : Byte), 47], 40 ≤ c.toNat ∧ c.toNat ≤ 47)
    ∧ (∀ c ∈ [(39 : Byte), 48], c ≠ 36 ∧ ¬ (40 ≤ c.toNat ∧ c.toNat ≤ 47))
    ∧ (∀ x ∈ [SeatState.off, .idle, .present, .entry, .review .retry, .paused .child .entry, .paused .lesson .entry,
          .paused .gone .entry],
        ((stateA x).seat .a).state = x ∧ (stateA x).keyQueue .a = [] ∧ ((crowded x true).seat .a).state = x
          ∧ ((crowded x false).keyQueue .a).length < 16 ∧ 16 ≤ ((crowded x true).keyQueue .a).length)
    ∧ (crowded .entry true).keyQueue .a = List.replicate 15 (pressed 27) ++ [pressed 27]
    ∧ ((stateA (.review .retry)).seat .a).state = resumedState (.review .retry) := by
  decide +kernel

/-- Seat A in ENTRY, its key 0 mapped to a letter and about to complete. -/
def keyed : State :=
  sound ((typing (spell "c")).setMatrix .a
    { lesson.matrices.a with
      keymap := (Vector.replicate 64 0).set 0 27,
      keys := (Vector.replicate 64 KeyState.up).set 0 (.settlingDown 9) })

theorem test_hyps_TickTypesALetter :
    LinesFollow keyed ∧ ImagesFollow keyed
    ∧ (keyed.matrix .a).keys = (Vector.replicate 64 KeyState.up).set 0 (.settlingDown 9)
    ∧ keyed.timing.debounce.toNat ≤ 9 + 1 ∧ 1 ≤ keyed.timing.mashLimit.toNat ∧ (keyed.matrix .a).keymap[0] = 27
    ∧ (keyed.matrix .a).condition = .normal ∧ (keyed.matrix .a).repeating = none
    ∧ (keyed.matrix .b).keys = Vector.replicate 64 KeyState.up ∧ (keyed.matrix .b).condition = .normal
    ∧ (keyed.matrix .b).repeating = none ∧ ((keyed.seat .a).idleTimer ≠ some 0 ∧ (keyed.seat .b).idleTimer ≠ some 0)
    ∧ keyed.link.responseTimer ≠ some 0 ∧ keyed.link.inFlight = none ∧ keyed.reports.queue = []
    ∧ keyed.keyQueue .a = [] ∧ keyed.lane (.prompt .a) = [] ∧ keyed.lane (.echo .a) = []
    ∧ (keyed.seat .a).state = .entry ∧ (keyed.seat .a).line.length < 20 ∧ (keyed.seat .a).settings.check = .whole
    ∧ (keyed.seat .a).settings.echo = true := by
  refine ⟨sound_lines _, sound_images _, ?_⟩
  decide +kernel

theorem test_hyps_EnterLeadsToReview :
    let s (line : List Byte) := sound (typing line)
    (∀ l, ImagesFollow (s l))
    ∧ (∀ l ∈ [spell "cat", spell "cta"],
        ((s l).seat .a).state = .entry ∧ ((s l).seat .a).currentWord = some 0 ∧ ((s l).seat .a).line ≠ []
        ∧ (s l).lanes.feedback[(0 : Fin 8)] = some 0 ∧ (s l).lanes.feedback[(4 : Fin 8)] = some 0
        ∧ ((s l).handle 0).state = .kept ∧ ((s l).lane (.prompt .a)).length < 4
        ∧ ((s l).seat .a).tries.toNat < ((s l).seat .a).settings.triesAllowed.toNat ∧ (s l).reports.queue.length < 16)
    ∧ verdictOf (distance (spell "cat") (spell "cat")) 0 = .exact
    ∧ verdictOf (distance (spell "cta") (spell "cat")) 0 = .near := by
  refine ⟨fun l => sound_images _, ?_⟩
  decide +kernel

/-- Seat A in ENTRY on word 0, now with a sentence, with its line, barge-in, echo and check mode. -/
def trying (line : List Byte) (bargeIn echo : Bool) (check : CheckMode) : State :=
  ((typing line).setWord 0 { lesson.word 0 with sentence := some 0 }).mapSeat .a fun c =>
    { c with settings := { c.settings with bargeIn := bargeIn, echo := echo, check := check } }

/-- Lines around the target's end, a full line, an empty one. -/
theorem test_hyps_TakenKeysAct_line :
    (∀ l ∈ [spell "ca", spell "cax", spell "catt", List.replicate 20 1, []], ∀ b : Bool, ∀ e : Bool,
        ∀ x ∈ [CheckMode.whole, .strict],
        let s := trying l b e x
        (s.seat .a).state = .entry ∧ s.attempt .a = l ∧ s.target .a = spell "cat" ∧ (s.seat .a).settings.bargeIn = b
          ∧ (s.seat .a).settings.echo = e ∧ (s.seat .a).settings.check = x)
    ∧ (spell "cat")[2]? = some 20 ∧ (spell "cat")[3]? ≠ some 20
    ∧ (spell "cax").take 2 = (spell "cat").take 2 ∧ (spell "cax")[2]? ≠ some 20
    ∧ (spell "catt").take 3 = (spell "cat").take 3 ∧ 3 = (spell "cat").length ∧ 20 ≤ (List.replicate 20 (1 : Byte)).length
    ∧ (let s := trying [] true true .whole
       (s.seat .a).currentWord = some 0 ∧ (s.word 0).prompt = some 0 ∧ (s.word 0).sentence = some 0
         ∧ (s.handle 0).state = .kept ∧ (s.handle 1).state ≠ .kept ∧ (s.lane (.prompt .a)).length + 2 ≤ 4
         ∧ s.lanes.feedback[6] = some 0)
    ∧ (1 ≤ (27 : Byte).toNat ∧ (27 : Byte).toNat ≤ 27) := by
  decide +kernel

/-- Seat A in PRESENT, its prompt queued or streaming, then feedback, a sentence and a SAY. -/
def barging (flying : Bool) : State :=
  let e (id : Nat) (origin : SpeechOrigin) : SpeechEntry :=
    { id := id, content := .phrase 0, origin := origin, seat := some .a, channel := none, tag := 0, state := .queued,
      cutPending := false }
  let prompt := { e 0 .drillPrompt with state := if flying then .streaming else .queued }
  let t := ((trying [] true true .strict).setHandle 0 { keptPhrase with references := 4 }).mapSeat .a fun c =>
    { c with state := .present, presentationPrompt := some 0 }
  { t with
    nextEntryId := 4,
    lanes :=
      { t.lanes with
        prompt := { t.lanes.prompt with a := [prompt, e 1 .drillFeedback, e 2 .drillPrompt, e 3 .lessonSay] } },
    link :=
      { t.link with
        inFlight := if flying then some { lane := .prompt .a, serial := 0, position := 1, expansion := none } else none } }

theorem test_hyps_TakenKeysAct_barge :
    (∀ f, SpeechAccounted (barging f))
    ∧ (∀ f : Bool, ((barging f).seat .a).state = .present ∧ ((barging f).seat .a).settings.bargeIn = true
        ∧ ((barging f).seat .a).reviewFeedback = none ∧ (∀ e ∈ (barging f).lane (.prompt .a), e.tag = 0)
        ∧ (∃ e ∈ (barging f).lane (.prompt .a) ++ (barging f).lane (.echo .a),
            e.seat = some .a ∧ e.origin = .drillPrompt)
        ∧ (barging f).link.inFlight
            = if f then some { lane := .prompt .a, serial := 0, position := 1, expansion := none } else none)
    ∧ (∀ e ∈ ((barging true).lane (.prompt .a)).head?,
        e.state = .streaming ∧ e.seat = some .a ∧ e.origin = .drillPrompt) := by
  refine ⟨fun f => accounted_of (by cases f <;> decide +kernel), ?_⟩
  decide +kernel

theorem test_hyps_RepeatErasesAgain :
    let s (left : Nat) (x : SeatState) :=
      sound ((typing (spell "c")).setMatrix .a
        { lesson.matrices.a with repeating := some { position := 0, left := left } } |>.mapSeat .a fun c => { c with state := x })
    (∀ l x, LinesFollow (s l x) ∧ ImagesFollow (s l x))
    ∧ ((s 0 .entry).matrix .a).repeating = some { position := 0, left := 0 } ∧ ((s 0 .entry).seat .a).state = .entry
    ∧ ((s 0 .entry).seat .a).line ≠ [] ∧ (s 0 .entry).keyQueue .a = []
    ∧ ((s 0 (.review .final)).seat .a).state = .review .final ∧ ((s 0 (.review .final)).keyQueue .a).length < 16
    ∧ ((s 0 .off).seat .a).state = .off ∧ ((s 1 .entry).matrix .a).repeating = some { position := 0, left := 1 } := by
  refine ⟨fun l x => ⟨sound_lines _, sound_images _⟩, ?_⟩
  decide +kernel

/-- Seat A in ENTRY, its idle timer due, some nudges given, a phrase or none in slot 5. -/
def silent (nudges : Byte) (phrase : Option Handle) (queue : List Record) : State :=
  let t := (typing []).mapSeat .a fun c => { c with idleTimer := some 0, nudges := nudges }
  sound { t with
    lanes := { t.lanes with feedback := t.lanes.feedback.set 5 phrase },
    reports := { t.reports with queue := queue } }

theorem test_hyps_IdleTimerNudgesOrPauses :
    (∀ n h q, LinesFollow (silent n h q) ∧ ImagesFollow (silent n h q))
    ∧ (∀ n ∈ [1, 2], ∀ h ∈ [none, some 0, some 1], ∀ q ∈ [[], fullQueue],
        let s := silent n h q
        (s.seat .a).state = resumedState .entry ∧ (s.seat .a).idleTimer = some 0 ∧ (s.seat .a).nudges = n
          ∧ s.lanes.feedback[5] = h ∧ (s.lane (.prompt .a)).length < 4 ∧ s.reports.queue = q)
    ∧ ((silent 2 none []).seat .a).settings.nudgeLimit = 2 ∧ ((silent 1 none []).handle 0).state = .kept
    ∧ ((silent 1 none []).handle 1).state ≠ .kept ∧ ((sound (typing [])).seat .a).idleTimer ≠ some 0 := by
  refine ⟨fun n h q => ⟨sound_lines _, sound_images _⟩, ?_⟩
  decide +kernel

end Sys2Proof.Tests
end

section
/-! PROOFS. The pick of a next word (R38): the fold of `pickWord` finds the least candidate in the order of due round, then
mastery, then index. -/
namespace Sys2Proof.Proofs.Pick
open Sys2Proof Sys2Proof.Machine

/-! ## The order of the pick -/

section Order
variable (k : Seat) (s : State)

/-- The order of R38 with its last tie-break: word w has the lower due round, or an equal one and the lower mastery, or both
equal and an index not above v's. -/
def PicksFirst (w v : WordIndex) : Prop :=
  (s.progress w k).due.toNat < (s.progress v k).due.toNat
  ∨ ((s.progress w k).due = (s.progress v k).due
    ∧ ((s.progress w k).mastery.toNat < (s.progress v k).mastery.toNat
      ∨ ((s.progress w k).mastery = (s.progress v k).mastery ∧ w.val ≤ v.val)))

/-- `PicksFirst` with every figure read as a number. -/
theorem picksFirst_iff_toNat (w v : WordIndex) :
    PicksFirst k s w v ↔
      (s.progress w k).due.toNat < (s.progress v k).due.toNat
      ∨ ((s.progress w k).due.toNat = (s.progress v k).due.toNat
        ∧ ((s.progress w k).mastery.toNat < (s.progress v k).mastery.toNat
          ∨ ((s.progress w k).mastery.toNat = (s.progress v k).mastery.toNat ∧ w.val ≤ v.val))) := by
  simp only [PicksFirst, BitVec.toNat_inj]

/-- `picksBefore` with every figure read as a number. -/
theorem picksBefore_iff_toNat (w v : WordIndex) :
    picksBefore k s w v = true ↔
      (s.progress w k).due.toNat < (s.progress v k).due.toNat
      ∨ ((s.progress w k).due.toNat = (s.progress v k).due.toNat
        ∧ (s.progress w k).mastery.toNat < (s.progress v k).mastery.toNat) := by
  simp [picksBefore, BitVec.toNat_inj]

variable {k s} {u v w : WordIndex}

theorem PicksFirst.refl (w : WordIndex) : PicksFirst k s w w := .inr ⟨rfl, .inr ⟨rfl, Nat.le_refl _⟩⟩

theorem PicksFirst.trans (huv : PicksFirst k s u v) (hvw : PicksFirst k s v w) : PicksFirst k s u w := by
  rw [picksFirst_iff_toNat] at *
  omega

theorem PicksFirst.antisymm (hvw : PicksFirst k s v w) (hwv : PicksFirst k s w v) : v = w := by
  rw [picksFirst_iff_toNat] at *
  exact Fin.ext (by omega)

theorem PicksFirst.of_picksBefore (h : picksBefore k s w v = true) : PicksFirst k s w v := by
  rw [picksBefore_iff_toNat] at h
  rw [picksFirst_iff_toNat]
  omega

/-- Where the later word does not come before, the index decides for the earlier one. -/
theorem PicksFirst.of_not_picksBefore (h : ¬ picksBefore k s w v = true) (hidx : v ≤ w) : PicksFirst k s v w := by
  rw [picksBefore_iff_toNat] at h
  rw [picksFirst_iff_toNat]
  rw [Fin.le_def] at hidx
  omega

end Order

/-! ## The candidates stand in index order -/

theorem wordIndexes_sorted : wordIndexes.Pairwise (· < ·) := by
  rw [wordIndexes, List.pairwise_map]
  refine List.pairwise_lt_range.imp_of_mem fun {i j} hi hj hij => ?_
  rw [List.mem_range] at hi hj
  simpa [Fin.lt_def, Nat.mod_eq_of_lt hi, Nat.mod_eq_of_lt hj] using hij

theorem pickCandidates_sorted (k : Seat) (s : State) : (pickCandidates k s).Pairwise (· < ·) := by
  have henabled : (enabledWords s).Pairwise (· < ·) := wordIndexes_sorted.filter _
  simp only [pickCandidates]
  split
  · exact henabled
  · exact henabled.filter _

/-! ## The fold finds the least candidate -/

/-- One step of the fold keeps the word that comes first of the two; the best word so far has the lower index. -/
theorem picksFirst_better {k : Seat} {s : State} {best x : WordIndex} (hidx : best ≤ x) :
    let kept := if picksBefore k s x best then x else best
    (kept = best ∨ kept = x) ∧ PicksFirst k s kept best ∧ PicksFirst k s kept x := by
  split
  case isTrue hbefore => exact ⟨.inr rfl, .of_picksBefore hbefore, .refl x⟩
  case isFalse hbefore => exact ⟨.inl rfl, .refl best, .of_not_picksBefore hbefore hidx⟩

/-- Over words in index order the fold answers one of them, and it comes first of them all. -/
theorem foldl_picksFirst (k : Seat) (s : State) (best : WordIndex) (ws : List WordIndex)
    (hsorted : (best :: ws).Pairwise (· < ·)) :
    let picked := ws.foldl (fun best x => if picksBefore k s x best then x else best) best
    picked ∈ best :: ws ∧ ∀ v ∈ best :: ws, PicksFirst k s picked v := by
  induction ws generalizing best with
  | nil => simpa using PicksFirst.refl best
  | cons x xs ih =>
    have hbest_lt_x : best < x := List.rel_of_pairwise_cons hsorted List.mem_cons_self
    obtain ⟨hkept, hfirst_best, hfirst_x⟩ := picksFirst_better (k := k) (s := s) (Nat.le_of_lt hbest_lt_x)
    rw [List.foldl_cons]
    generalize (if picksBefore k s x best then x else best) = kept at hkept hfirst_best hfirst_x ⊢
    have hsorted_kept : (kept :: xs).Pairwise (· < ·) := by
      rcases hkept with rfl | rfl
      · exact hsorted.sublist ((List.sublist_cons_self x xs).cons_cons _)
      · exact hsorted.of_cons
    obtain ⟨hmem, hfirst⟩ := ih kept hsorted_kept
    have hfirst_kept := hfirst kept List.mem_cons_self
    refine ⟨?_, ?_⟩
    · rcases hkept with rfl | rfl
      · exact List.mem_cons.2 ((List.mem_cons.1 hmem).imp_right (List.mem_cons_of_mem x))
      · exact List.mem_cons_of_mem best hmem
    · intro v hv
      obtain rfl | rfl | hv := by simpa using hv
      · exact hfirst_kept.trans hfirst_best
      · exact hfirst_kept.trans hfirst_x
      · exact hfirst v (List.mem_cons_of_mem kept hv)

/-- While there is a candidate the pick takes one, and it comes first of them all. -/
theorem exists_pickWord {k : Seat} {s : State} (h : pickCandidates k s ≠ []) :
    ∃ w, pickWord k s = some w ∧ w ∈ pickCandidates k s ∧ ∀ v ∈ pickCandidates k s, PicksFirst k s w v := by
  have hsorted := pickCandidates_sorted k s
  unfold pickWord
  cases hcand : pickCandidates k s with
  | nil => exact absurd hcand h
  | cons w ws => exact ⟨_, rfl, foldl_picksFirst k s w ws (hcand ▸ hsorted)⟩

theorem pickWord_eq_none {k : Seat} {s : State} (h : pickCandidates k s = []) : pickWord k s = none := by
  simp [pickWord, h]

/-- The pick is the candidate that comes first of them all; the order leaves no two. -/
theorem pickWord_eq_some_iff (k : Seat) (s : State) (w : WordIndex) :
    pickWord k s = some w ↔ w ∈ pickCandidates k s ∧ ∀ v ∈ pickCandidates k s, PicksFirst k s w v := by
  by_cases hempty : pickCandidates k s = []
  · simp [pickWord_eq_none hempty, hempty]
  · obtain ⟨p, hpick, hp, hfirst⟩ := exists_pickWord hempty
    rw [hpick, Option.some.injEq]
    constructor
    · rintro rfl
      exact ⟨hp, hfirst⟩
    · rintro ⟨hw, hleast⟩
      exact (hfirst w hw).antisymm (hleast p hp)

/-! ## What the pick depends on -/

section SameDeck
variable {s t : State} (hdeck : t.deck = s.deck)
include hdeck

theorem word_of_deck_eq (w : WordIndex) : t.word w = s.word w := by
  simp only [State.word, hdeck]

theorem progress_of_deck_eq (w : WordIndex) (k : Seat) : t.progress w k = s.progress w k := by
  simp only [State.progress, word_of_deck_eq hdeck]

theorem pickCandidates_of_deck_eq {k : Seat} (hprev : (t.seat k).previousWord = (s.seat k).previousWord) :
    pickCandidates k t = pickCandidates k s := by
  unfold pickCandidates enabledWords
  rw [hprev]
  simp only [word_of_deck_eq hdeck]

theorem picksBefore_of_deck_eq (k : Seat) (x y : WordIndex) : picksBefore k t x y = picksBefore k s x y := by
  simp only [picksBefore, progress_of_deck_eq hdeck]

theorem pickWord_of_deck_eq {k : Seat} (hprev : (t.seat k).previousWord = (s.seat k).previousWord) :
    pickWord k t = pickWord k s := by
  simp only [pickWord, pickCandidates_of_deck_eq hdeck hprev, picksBefore_of_deck_eq hdeck]

end SameDeck

/-- Settles O22: the fold over the candidates, which stand in index order, finds the one that comes first. -/
theorem pickTakesTheLowest : Obligations.PickTakesTheLowest := by
  intro k s
  refine ⟨pickWord_eq_some_iff k s, fun hne => ?_, fun t hdeck hprev => pickWord_of_deck_eq hdeck hprev⟩
  obtain ⟨w, hpick, -, -⟩ := exists_pickWord hne
  exact ⟨w, hpick⟩

end Sys2Proof.Proofs.Pick
end

section
/-! PROOFS. The new streak (R89): a saturating counter on EXACT, and 0 on every other verdict. -/
namespace Sys2Proof.Proofs.Streak
open Sys2Proof Sys2Proof.Machine

/-- A saturating counter of any width, read as a number: one more, stopping at its largest value. -/
theorem toNat_saturatingSucc {w : Nat} (x : BitVec w) :
    (saturatingSucc x).toNat = min (2 ^ w - 1) (x.toNat + 1) := by
  unfold saturatingSucc
  split
  case isTrue hfull =>
    rw [hfull, BitVec.toNat_allOnes]
    omega
  case isFalse hroom =>
    have hne : x.toNat ≠ 2 ^ w - 1 := fun h =>
      hroom (BitVec.eq_of_toNat_eq (h.trans BitVec.toNat_allOnes.symm))
    have hlt : x.toNat + 1 < 2 ^ w := by have := x.isLt; omega
    rw [BitVec.toNat_add, BitVec.ofNat_eq_ofNat, BitVec.toNat_ofNat, Nat.add_mod_mod, Nat.mod_eq_of_lt hlt]
    omega

theorem newStreakOf_exact (old : Byte) : newStreakOf old .exact = saturatingSucc old := if_pos rfl

theorem newStreakOf_of_ne_exact (old : Byte) {v : Verdict} (h : v ≠ .exact) : newStreakOf old v = 0 := if_neg h

/-- Settles O58: on EXACT the streak is a saturating counter of 8 bits, and no other verdict keeps it. -/
theorem streakCountsExactWords : Obligations.StreakCountsExactWords := fun old =>
  ⟨newStreakOf_exact old ▸ toNat_saturatingSucc old,
    newStreakOf_of_ne_exact old nofun, newStreakOf_of_ne_exact old nofun, newStreakOf_of_ne_exact old nofun⟩

end Sys2Proof.Proofs.Streak
end

section
/-! PROOFS. What the code byte alone settles on the Lesson Port: an unlisted code (R175) and IDENTIFY (R181). -/
namespace Sys2Proof.Proofs.CodeByte
open Sys2Proof Sys2Proof.Machine Sys2Proof.Safety

/-! ## A frame up to its last request byte -/

/-- The reply bytes that a check gives: those of an accepted request, and none otherwise (R178). -/
def replyOf : Check → List Byte
  | .incomplete | .refused _ => []
  | .accepted reply => reply

/-- From the last request byte on the port sends the reply that the check gives (R178). -/
theorem reply_request {s : State} (i : Instr) (h : PortIdle s) :
    (lessonFrame .request i s).port.reply = replyOf (checkRequest i s) := by
  simp only [lessonFrame, openFrame_of_idle h, receive, checkRequest_port, reduceIte]
  cases checkRequest i s with
  | incomplete => rfl
  | refused o => rfl
  | accepted reply => rfl

theorem lessonByte_of_no_reply {s : State} (h : s.port.reply = []) (n : Nat) : s.lessonByte n = 255 := by
  rw [State.lessonByte, h]
  rfl

/-! ## Unlisted codes -/

section Unlisted
variable {code : Byte} (hcode : code ∉ Config.lessonCodes)
include hcode

/-- Every code that stands for a command on its own is listed, so an unlisted one stands for none. -/
theorem codeAlone_of_unlisted (stage : FrameStage) : codeAlone stage code = none := by
  have hne : ∀ c ∈ Config.lessonCodes, code ≠ c := fun c hc h => hcode (h ▸ hc)
  simp only [codeAlone, if_neg (hne 0x01 (by decide)), if_neg (hne 0x02 (by decide)), if_neg (hne 0x40 (by decide)),
    if_neg (hne 0x41 (by decide)), if_neg (hne 0x43 (by decide)), if_neg (hne 0x44 (by decide))]

theorem exec_unknownCommand_of_unlisted (stage : FrameStage) (s : State) :
    exec (.unknownCommand stage code) s = .next (lessonFrame stage (.unknownCommand stage code) s) := by
  rw [exec, execUnknownCommand, codeAlone_of_unlisted hcode, Option.getD_none]

/-- The code byte completes the request, with UNKNOWN (R175). -/
theorem checkRequest_unknownCommand_of_unlisted (stage : FrameStage) (s : State) :
    checkRequest (.unknownCommand stage code) s = .refused .unknown :=
  if_neg fun h => hcode (List.contains_iff_mem.mp h)

theorem lessonFrame_unknownCommand_of_unlisted {s : State} (h : PortIdle s) :
    lessonFrame .frameEnd (.unknownCommand .frameEnd code) s = { s with port := framePort s .unknown [] } :=
  lessonFrame_refused h (checkRequest_unknownCommand_of_unlisted hcode .frameEnd s)

end Unlisted

/-- Settles O11: the check refuses an unlisted code with UNKNOWN at the code byte, so the frame that ends there is the
whole frame, and a refused request changes the port alone. -/
theorem unknownCommandChangesNothing : Obligations.UnknownCommandChangesNothing := by
  intro code s hcode hidle
  have hframe := lessonFrame_unknownCommand_of_unlisted hcode hidle
  refine ⟨by rw [exec_unknownCommand_of_unlisted hcode, hframe], fun t ht => ?_⟩
  rw [exec_unknownCommand_of_unlisted hcode] at ht
  obtain rfl := Host.Outcome.next.inj ht
  have hreply : (lessonFrame .request (.unknownCommand .request code) s).port.reply = [] := by
    rw [reply_request _ hidle, checkRequest_unknownCommand_of_unlisted hcode, replyOf]
  have hend : endFrame (openFrame (lessonFrame .request (.unknownCommand .request code) s)) =
      lessonFrame .frameEnd (.unknownCommand .frameEnd code) s :=
    endFrame_after_request hidle (fun _ => rfl) (fun _ _ => rfl)
  exact ⟨lessonByte_of_no_reply hreply, congrArg Host.Outcome.next (hend.trans hframe)⟩

/-! ## IDENTIFY -/

theorem exec_identify (stage : FrameStage) (s : State) :
    exec (.identify stage) s = .next (lessonFrame stage (.identify stage) s) := rfl

theorem identifyReply_bytes : identifyReply = [0x02, 0x40, 0x01, 128, 64, 48, 2] := by decide

theorem checkRequest_identify (stage : FrameStage) (s : State) :
    checkRequest (.identify stage) s = .accepted [0x02, 0x40, 0x01, 128, 64, 48, 2] :=
  congrArg Check.accepted identifyReply_bytes

/-- Settles O14: IDENTIFY is accepted in every state, and its frame end carries out nothing. -/
theorem identifyGivesTheCapacities : Obligations.IdentifyGivesTheCapacities := by
  intro s hidle
  constructor
  · rw [exec_identify, lessonFrame_accepted hidle (checkRequest_identify .frameEnd s), carryOut,
      recordOutcome_carriedFrom]
  · intro t ht
    rw [exec_identify] at ht
    obtain rfl := Host.Outcome.next.inj ht
    rw [reply_request _ hidle, checkRequest_identify, replyOf]

end Sys2Proof.Proofs.CodeByte
end

section
/-! PROOFS. Facts about lists that core Lean does not state. -/
namespace Sys2Proof.Proofs.Lists

theorem getD_of_lt {α : Type} {l : List α} {i : Nat} (h : i < l.length) (d : α) : l.getD i d = l[i] := by
  rw [List.getD_eq_getElem?_getD, List.getElem?_eq_getElem h, Option.getD_some]

theorem getD_of_le {α : Type} {l : List α} {i : Nat} (h : l.length ≤ i) (d : α) : l.getD i d = d := by
  rw [List.getD_eq_getElem?_getD, List.getElem?_eq_none h, Option.getD_none]

end Sys2Proof.Proofs.Lists
end

section
/-! PROOFS. The lines and the idle timers after every step (R132, R156, R169, R64): most commands end in `settle`, and the
others leave what a line or a timer's condition reads. -/
namespace Sys2Proof.Proofs.Lines
open Sys2Proof Sys2Proof.Machine Sys2Proof.Safety

/-- Nothing that a line or a timer's condition reads is changed, and neither are the lines and the timers. -/
theorem linesFollow_of_levels {s t : State} (h : LinesFollow s) (hpins : t.pins = s.pins)
    (hlevels : pinLevels t = pinLevels s) (htimers : ∀ k, (t.seat k).idleTimer = (s.seat k).idleTimer)
    (hruns : ∀ k, idleTimerRuns k t = idleTimerRuns k s) : LinesFollow t := by
  rw [linesFollow_iff] at h ⊢
  obtain ⟨hlines, hidle⟩ := h
  exact ⟨by rw [hpins, hlines, hlevels], fun k => by rw [htimers, hidle, hruns]⟩

theorem linesFollow_port {s : State} (p : LessonPort) (h : LinesFollow s) : LinesFollow { s with port := p } :=
  linesFollow_congr h rfl rfl rfl rfl rfl rfl

theorem linesFollow_pending {s : State} (q : List Instr) (h : LinesFollow s) : LinesFollow { s with pending := q } :=
  linesFollow_congr h rfl rfl rfl rfl rfl rfl

theorem linesFollow_afterReset (s : State) : LinesFollow (afterReset s) := by
  rw [linesFollow_iff]
  exact ⟨rfl, fun k => by cases k <;> rfl⟩

/-- Pages, handles and references are read by no line. -/
theorem linesFollow_phrases {s : State} (p : PhraseMemory) (h : LinesFollow s) : LinesFollow { s with phrases := p } :=
  linesFollow_congr h rfl rfl rfl rfl rfl rfl

theorem linesFollow_deck {s : State} (d : Deck) (h : LinesFollow s) : LinesFollow { s with deck := d } :=
  linesFollow_congr h rfl rfl rfl rfl rfl rfl

theorem linesFollow_freePhrase {s : State} (g : Handle) (h : LinesFollow s) : LinesFollow (freePhrase g s) :=
  linesFollow_congr h (by simp) (by simp) (by simp) (by simp) (by simp) (by simp)

/-- New settings for a seat whose timer cannot run, since it is in no word (R64). -/
theorem linesFollow_settings {s : State} {k : Seat} {c : SeatContext} (h : LinesFollow s)
    (hout : (s.seat k).state = .off ∨ (s.seat k).state = .idle) (hstate : c.state = (s.seat k).state)
    (htimer : c.idleTimer = (s.seat k).idleTimer) (hresult : c.pendingResult = (s.seat k).pendingResult) :
    LinesFollow (s.setSeat k c) := by
  have hruns : ∀ t : State, (t.seat k).state = (s.seat k).state → idleTimerRuns k t = false := fun t ht => by
    unfold idleTimerRuns
    rcases hout with ho | ho <;> rw [ht, ho] <;> rfl
  refine linesFollow_of_levels h rfl ?_ (fun j => ?_) (fun j => ?_)
  · have hpaused : c.isPaused = (s.seat k).isPaused := by simp only [SeatContext.isPaused, hstate]
    have hattn : attnLevel (s.setSeat k c) = attnLevel s := by
      cases k <;> simp only [attnLevel, causesDriving, causesPending, SeatContext.holding, State.setSeat, Pair.set,
        hresult, State.seat, Pair.get] <;> rfl
    have hoffers : ∀ i, laneOffers i (s.setSeat k c) = laneOffers i s := fun i => by
      have hp : ∀ j, ((s.setSeat k c).seat j).isPaused = (s.seat j).isPaused := fun j => by
        simp only [State.seat, State.setSeat, Pair.get_set]
        split
        case isTrue hj => rw [hj]; exact hpaused
        case isFalse => rfl
      cases i <;> simp only [laneOffers, State.lane_setSeat, hp]
    have hsrq : srqLevel (s.setSeat k c) = srqLevel s := by
      simp only [srqLevel, seatOffers, hoffers, State.setSeat_link, inFlightEntry, State.lane_setSeat]
    simp only [pinLevels, hattn, hsrq]
    rfl
  · simp only [State.seat, State.setSeat, Pair.get_set]
    split
    case isTrue hj => rw [hj]; exact htimer
    case isFalse => rfl
  · by_cases hj : j = k
    · rw [hj, hruns s rfl, hruns _ (by rw [State.seat_setSeat_self, hstate])]
    · have hseat : (s.setSeat k c).seat j = s.seat j := by
        simp only [State.seat, State.setSeat, Pair.get_set, if_neg hj]
      simp only [idleTimerRuns, seatEntries, hseat, State.lane_setSeat]

theorem linesFollow_content {α : Type} {content : Option α} {act : α → Carried} {s : State}
    (hact : ∀ x, LinesFollow (act x).2) (h : LinesFollow s) : LinesFollow (carryContent content s act).2 := by
  unfold carryContent
  split
  · exact hact _
  · exact h

theorem linesFollow_say (handle target channel tag : Byte) {s : State} (h : LinesFollow s) :
    LinesFollow (carrySay handle target channel tag s).2 := by
  refine linesFollow_content (fun r => ?_) h
  unfold saySystem saySeat
  repeat' split
  all_goals first | exact h | exact linesFollow_settle _

theorem linesFollow_carryOut (i : Instr) (shown : Shown) {s : State} (h : LinesFollow s) :
    LinesFollow (carryOut i shown s).2 := by
  cases i <;> try exact h
  case resetPart => exact linesFollow_afterReset s
  case setTiming => exact linesFollow_congr h rfl rfl rfl rfl rfl rfl
  case loadKeymap => exact linesFollow_content (fun r => linesFollow_congr h rfl rfl rfl rfl rfl rfl) h
  case loadWord =>
    refine linesFollow_content (fun r => ?_) h
    split
    · exact h
    · exact linesFollow_deck _ h
  case setProgress =>
    refine linesFollow_content (fun r => ?_) h
    split
    · exact h
    · exact linesFollow_deck _ h
  case setIntervals => exact linesFollow_deck _ h
  case setFeedback =>
    exact linesFollow_content (fun r => linesFollow_of_levels h rfl rfl (fun _ => rfl) (fun _ => rfl)) h
  case writePhrase =>
    refine linesFollow_content (fun r => ?_) h
    split
    · exact h
    · split
      · exact h
      · exact linesFollow_phrases _ h
  case freePhrase =>
    refine linesFollow_content (fun g => ?_) h
    split
    · exact linesFollow_freePhrase g h
    · exact linesFollow_freePhrase g h
    · exact h
    · exact h
  case say => exact linesFollow_say _ _ _ _ h
  case setSeat =>
    refine linesFollow_content (fun r => ?_) h
    split
    case h_1 hs => exact linesFollow_settings h (.inl hs) rfl rfl rfl
    case h_2 hs => exact linesFollow_settings h (.inr hs) rfl rfl rfl
    all_goals exact h
  case readReports =>
    simp only [carryOut, carryReadReports]
    split
    · exact linesFollow_meetEach _ h
    · exact linesFollow_settle _
  case setCauses => exact linesFollow_settle _
  case clearFault => exact linesFollow_settle _
  case readCounters =>
    simp only [carryOut, carryReadCounters]
    split
    · exact linesFollow_of_levels h rfl rfl (fun _ => rfl) (fun _ => rfl)
    · exact h
  all_goals
    refine linesFollow_content (fun r => ?_) h
    split
    all_goals first | exact h | exact linesFollow_settle _

theorem linesFollow_openFrame {s : State} (h : LinesFollow s) : LinesFollow (openFrame s) := by
  unfold openFrame
  split
  · exact h
  · exact linesFollow_port _ h

theorem linesFollow_endFrame {s : State} (h : LinesFollow s) : LinesFollow (endFrame s) := by
  unfold endFrame
  split
  · exact linesFollow_port _ h
  · exact linesFollow_port _ (linesFollow_port _ h)
  · exact linesFollow_port _ (linesFollow_port _ h)
  · exact linesFollow_port _ (linesFollow_carryOut _ _ (linesFollow_port _ h))

theorem linesFollow_lessonFrame (stage : FrameStage) (i : Instr) {s : State} (h : LinesFollow s) :
    LinesFollow (lessonFrame stage i s) := by
  obtain ⟨p, hp⟩ := lessonFrame_request i s
  have hrequest : LinesFollow (receive i (openFrame s)) := by
    have heq : receive i (openFrame s) = { s with port := p } := hp
    rw [heq]
    exact linesFollow_port p h
  cases stage with
  | request => exact hrequest
  | frameEnd =>
    refine linesFollow_endFrame ?_
    unfold updateClocked
    split
    · exact linesFollow_port _ hrequest
    · exact hrequest

/-- The lines follow after a read on the Display Port, which can only move the delivered generations (R168). -/
theorem linesFollow_endRead (sent : ReadSent) {s : State} (h : LinesFollow s) : LinesFollow (endRead sent s) := by
  have hidle := ((linesFollow_iff s).mp h).2
  unfold endRead
  split
  · exact h
  · exact linesFollow_of_levels h rfl rfl (fun _ => rfl) (fun _ => rfl)
  · rw [linesFollow_iff]
    exact ⟨rfl, hidle⟩

theorem linesFollow_exec {i : Instr} {s t : State} (e : exec i s = .next t) (h : LinesFollow s) : LinesFollow t := by
  have hframe := fun (g : FrameStage) (i : Instr) => linesFollow_lessonFrame g i h
  cases i <;> cases e
  case powerOnReset => exact linesFollow_afterReset s
  case statusByte =>
    refine linesFollow_openFrame ?_
    split
    · exact linesFollow_endFrame h
    · exact h
  case shortFrame => exact linesFollow_endFrame (linesFollow_openFrame h)
  case unknownSpeechRequest =>
    split
    · exact h
    · exact linesFollow_settle _
  case displayPointerWrite =>
    unfold writePointer
    repeat' split
    all_goals exact linesFollow_of_levels h rfl rfl (fun _ => rfl) (fun _ => rfl)
  case displayReadBegin =>
    unfold beginRead
    split
    all_goals exact linesFollow_of_levels h rfl rfl (fun _ => rfl) (fun _ => rfl)
  case displayReadEnd => exact linesFollow_endRead _ h
  case lessonClockTick => exact linesFollow_settle _
  case repeatExpiry => exact linesFollow_settle _
  case idleTimerExpiry => exact linesFollow_settle _
  case agedExpiry => exact linesFollow_settle _
  case fetch => exact linesFollow_settle _
  case engineDone => exact linesFollow_settle _
  case responseTimerExpiry => exact linesFollow_settle _
  all_goals exact hframe _ _

/-- Settles O4: a step runs one command, and every command leaves the lines following the state. -/
theorem linesFollowEveryStep : Obligations.LinesFollowEveryStep := by
  intro s t h e
  unfold step at e
  split at e
  · cases e; exact h
  · exact linesFollow_exec e (linesFollow_pending _ h)

end Sys2Proof.Proofs.Lines
end

section
/-! PROOFS. The live images after every step (R73, R165): what changes a shown field ends in an image write. -/
namespace Sys2Proof.Proofs.Images
open Sys2Proof Sys2Proof.Machine Sys2Proof.Safety

theorem images_afterReset (s : State) : ImagesFollow (afterReset s) := by
  intro k
  cases k <;> exact ⟨rfl, rfl, rfl, rfl⟩

theorem images_port {s : State} (p : LessonPort) (h : ImagesFollow s) : ImagesFollow { s with port := p } :=
  images_unchanged h rfl rfl rfl

/-- A word whose letters change is no seat's current word (R25). -/
theorem target_setWord_of_unused {s : State} {w : WordIndex} (r : WordRecord) (h : s.inUse w = false) (k : Seat) :
    (s.setWord w r).target k = s.target k := by
  have hword : (s.seat k).currentWord ≠ some w := by
    simp only [State.inUse, Bool.or_eq_false_iff, decide_eq_false_iff_not] at h
    obtain ⟨⟨ha, -⟩, hb, -⟩ := h
    cases k
    · exact ha
    · exact hb
  simp only [State.target, State.seat_setWord]
  split
  · rename_i v hv
    rw [State.word_setWord, if_neg (fun e => hword (by rw [hv, e]))]
  · rfl

theorem images_setWord_of_unused {s : State} {w : WordIndex} (r : WordRecord) (hw : s.inUse w = false)
    (h : ImagesFollow s) : ImagesFollow (s.setWord w r) :=
  fun k => shows_congr (h k) rfl rfl rfl rfl (by rw [target_setWord_of_unused r hw])

theorem images_content {α : Type} {content : Option α} {act : α → Carried} {s : State}
    (hact : ∀ x, ImagesFollow (act x).2) (h : ImagesFollow s) : ImagesFollow (carryContent content s act).2 := by
  unfold carryContent
  split
  · exact hact _
  · exact h

theorem takeReference_frame {g : Handle} {s t : State} (e : takeReference g s = some t) :
    t.seats = s.seats ∧ t.deck = s.deck ∧ t.mirror = s.mirror := by
  simp only [takeReference] at e
  split at e <;> cases e <;> exact ⟨rfl, rfl, rfl⟩

theorem images_say (handle target channel tag : Byte) {s : State} (h : ImagesFollow s) :
    ImagesFollow (carrySay handle target channel tag s).2 := by
  have hjoin : ∀ {g t} lane content origin seat channel tag, takeReference g s = some t →
      ImagesFollow (settle (joinLane lane content origin seat channel tag t)) := by
    intro g t lane content origin seat channel tag e
    obtain ⟨hs, hd, hm⟩ := takeReference_frame e
    exact images_settle (images_unchanged h (by simp [hs]) (by simp [hd]) (by simp [hm]))
  refine images_content (fun r => ?_) h
  split
  · unfold saySystem
    split
    · exact h
    · split
      · exact hjoin _ _ _ _ _ _ ‹_›
      · exact h
  · unfold saySeat
    split
    · split
      · exact h
      · split
        · exact hjoin _ _ _ _ _ _ ‹_›
        · exact h
    · exact h

theorem images_carryOut (i : Instr) (shown : Shown) {s : State} (h : ImagesFollow s) :
    ImagesFollow (carryOut i shown s).2 := by
  cases i <;> try exact h
  case resetPart => exact images_afterReset s
  case loadKeymap => exact images_content (fun r => images_matrix _ _ h) h
  case loadWord =>
    refine images_content (fun r => ?_) h
    split
    · exact h
    · exact images_setWord_of_unused _ (Bool.eq_false_iff.mpr ‹_›) h
  case setProgress =>
    refine images_content (fun r => ?_) h
    split
    · exact h
    · exact images_setWord_of_unused _ (Bool.eq_false_iff.mpr ‹_›) h
  case setFeedback => exact images_content (fun r => images_unchanged h rfl rfl rfl) h
  case writePhrase =>
    refine images_content (fun r => ?_) h
    split
    · exact h
    · split
      · exact h
      · exact images_unchanged h rfl rfl rfl
  case freePhrase =>
    refine images_content (fun g => ?_) h
    split
    all_goals first | exact h | exact images_unchanged h (by simp) (by simp) (by simp)
  case say => exact images_say _ _ _ _ h
  case setSeat =>
    refine images_content (fun r => ?_) h
    split
    all_goals first | exact h | exact images_seat _ _ rfl rfl rfl rfl h
  case startSeat =>
    refine images_content (fun k => ?_) h
    split
    all_goals first | exact h | exact images_settle (images_startSeat k h)
  case nextWord =>
    refine images_content (fun r => ?_) h
    split
    all_goals first | exact h | exact images_settle (images_nextWord _ _ h)
  case pauseSeat =>
    refine images_content (fun k => ?_) h
    split
    all_goals first | exact h | exact images_settle (images_pauseForLesson k h)
  case resumeSeat =>
    refine images_content (fun k => ?_) h
    split
    all_goals first | exact h | exact images_settle (images_resume k h)
  case stopSeat =>
    refine images_content (fun k => ?_) h
    split
    all_goals first | exact h | exact images_settle (images_stopSeat k h)
  case readReports =>
    simp only [carryOut, carryReadReports]
    split
    · exact images_meetEach _ h
    · exact images_settle (images_tellRoom _ (images_meetEach _ (images_unchanged h (by simp) (by simp) (by simp))))
  case setCauses => exact images_settle (images_unchanged h (by simp) (by simp) (by simp))
  case clearFault => exact images_settle (images_unchanged h rfl rfl rfl)
  case readCounters =>
    simp only [carryOut, carryReadCounters]
    split
    · exact images_unchanged h rfl rfl rfl
    · exact h

theorem images_openFrame {s : State} (h : ImagesFollow s) : ImagesFollow (openFrame s) := by
  unfold openFrame
  split
  · exact h
  · exact images_port _ h

theorem images_endFrame {s : State} (h : ImagesFollow s) : ImagesFollow (endFrame s) := by
  unfold endFrame
  split
  · exact images_port _ h
  · exact images_port _ (images_port _ h)
  · exact images_port _ (images_port _ h)
  · exact images_port _ (images_carryOut _ _ (images_port _ h))

theorem images_lessonFrame (stage : FrameStage) (i : Instr) {s : State} (h : ImagesFollow s) :
    ImagesFollow (lessonFrame stage i s) := by
  obtain ⟨p, hp⟩ := lessonFrame_request i s
  have hrequest : ImagesFollow (receive i (openFrame s)) := by
    have heq : receive i (openFrame s) = { s with port := p } := hp
    rw [heq]
    exact images_port p h
  cases stage with
  | request => exact hrequest
  | frameEnd =>
    refine images_endFrame ?_
    unfold updateClocked
    split
    · exact images_port _ hrequest
    · exact hrequest

theorem images_exec {i : Instr} {s t : State} (e : exec i s = .next t) (h : ImagesFollow s) : ImagesFollow t := by
  have hframe := fun (g : FrameStage) (i : Instr) => images_lessonFrame g i h
  cases i <;> cases e
  case powerOnReset => exact images_afterReset s
  case lessonClockTick => exact images_tick _ _ _ _ h
  case repeatExpiry m => exact images_settle (images_fire (.repeating m) h)
  case idleTimerExpiry k => exact images_settle (images_fire (.idle k) h)
  case responseTimerExpiry first => exact images_settle (images_fire (.response first) h)
  case agedExpiry => exact images_settle (images_fire .aged h)
  case statusByte =>
    refine images_openFrame ?_
    split
    · exact images_endFrame h
    · exact h
  case shortFrame => exact images_endFrame (images_openFrame h)
  case fetch => exact images_settle (images_takeFetch _ h)
  case engineDone => exact images_settle (images_takeDone _ _ h)
  case unknownSpeechRequest =>
    split
    · exact h
    · exact images_settle (images_unchanged h (by simp [takeUnknownRequest, protocolFault])
        (by simp [takeUnknownRequest, protocolFault]) (by simp [takeUnknownRequest, protocolFault]))
  case displayPointerWrite =>
    unfold writePointer
    repeat' split
    all_goals exact images_unchanged h rfl rfl rfl
  case displayReadBegin =>
    unfold beginRead
    split
    all_goals exact images_unchanged h rfl rfl rfl
  case displayReadEnd =>
    unfold endRead
    split
    all_goals exact h
  all_goals exact hframe _ _

/-- Settles O6: a step runs one command, and no command leaves an image behind its seat. -/
theorem imagesFollowEveryStep : Obligations.ImagesFollowEveryStep := by
  intro s t h e
  unfold step at e
  split at e
  · cases e; exact h
  · exact images_exec e (images_unchanged h rfl rfl rfl)

end Sys2Proof.Proofs.Images
end

section
/-! PROOFS. Nothing ever holds more than its capacity (R18, R23, R41, R114, R149): every primitive move checks for room
before it adds. -/
namespace Sys2Proof.Proofs.Capacity
open Sys2Proof Sys2Proof.Machine Sys2Proof.Safety

/-- Places of a lane (R114). -/
def laneSize : LaneId → Nat
  | .system | .prompt _ => 4
  | .echo _ => 8

theorem lane_length_le {s : State} (h : WithinCapacity s) (i : LaneId) : (s.lane i).length ≤ laneSize i := by
  cases i with
  | system => exact h.system
  | prompt k => exact h.prompt k
  | echo k => exact h.echo k

/-- The lanes are changed, and each is short enough still. -/
theorem withinCapacity_lanes {s t : State} (h : WithinCapacity s) (hkeys : t.keyQueues = s.keyQueues)
    (hreports : t.reports = s.reports) (hseats : t.seats = s.seats) (hdeck : t.deck = s.deck)
    (hlanes : ∀ i, (t.lane i).length ≤ laneSize i) : WithinCapacity t where
  keyQueues := by simpa only [State.keyQueue, hkeys] using h.keyQueues
  system := hlanes .system
  prompt k := hlanes (.prompt k)
  echo k := hlanes (.echo k)
  reports := by rw [hreports]; exact h.reports
  line := by simpa only [State.seat, hseats] using h.line
  letters := by simpa only [State.word, hdeck] using h.letters

theorem withinCapacity_reset (s : State) : WithinCapacity (afterReset s) where
  keyQueues k := by cases k <;> exact Nat.zero_le _
  system := Nat.zero_le _
  prompt k := by cases k <;> exact Nat.zero_le _
  echo k := by cases k <;> exact Nat.zero_le _
  reports := Nat.zero_le _
  line k := by cases k <;> exact Nat.zero_le _
  letters w := by simp [afterReset, State.reset, State.word, Deck.reset, WordRecord.reset]

theorem withinCapacity_keyQueue {s : State} (k : Seat) (q : List KeyEntry) (hq : q.length ≤ 16)
    (h : WithinCapacity s) : WithinCapacity (s.setKeyQueue k q) where
  keyQueues j := by
    simp only [State.keyQueue, State.setKeyQueue, Pair.get_set]
    split
    · exact hq
    · exact h.keyQueues j
  system := h.system
  prompt := h.prompt
  echo := h.echo
  reports := h.reports
  line := h.line
  letters := h.letters

theorem withinCapacity_seat {s : State} (k : Seat) (c : SeatContext) (hc : c.line.length ≤ 20)
    (h : WithinCapacity s) : WithinCapacity (s.setSeat k c) where
  keyQueues := h.keyQueues
  system := h.system
  prompt := h.prompt
  echo := h.echo
  reports := h.reports
  line j := by
    simp only [State.seat, State.setSeat, Pair.get_set]
    split
    · exact hc
    · exact h.line j
  letters := h.letters

theorem target_length_le {s : State} (h : WithinCapacity s) (k : Seat) : (s.target k).length ≤ 16 := by
  unfold State.target
  split
  · exact h.letters _
  · exact Nat.zero_le _

/-- An entry joins a lane that has room for it. -/
theorem lane_joinLane_length {s : State} (i j : LaneId) (content : Content) (origin : SpeechOrigin) (seat : Option Seat)
    (channel : Option Channel) (tag : Byte) (hroom : (s.lane i).length < laneSize i)
    (h : ∀ l, (s.lane l).length ≤ laneSize l) :
    ((joinLane i content origin seat channel tag s).lane j).length ≤ laneSize j := by
  change ((s.setLane i _).lane j).length ≤ _
  rw [State.lane_setLane]
  split
  case isTrue hj => rw [hj, List.length_append, List.length_singleton]; exact hroom
  case isFalse => exact h j

theorem dropOldestQueued_length_lt {l : List SpeechEntry} (h : 2 ≤ l.length) :
    (dropOldestQueued l).length < l.length := by
  cases l with
  | nil => simp at h
  | cons e rest =>
    simp only [dropOldestQueued]
    split
    · simp
    · simp only [List.length_cons, List.length_tail] at h ⊢
      omega

theorem takeReference_lane {g : Handle} {s t : State} (e : takeReference g s = some t) (i : LaneId) :
    t.lane i = s.lane i := by
  simp only [takeReference] at e
  split at e <;> cases e <;> rfl

theorem takeReference_rest {g : Handle} {s t : State} (e : takeReference g s = some t) :
    t.keyQueues = s.keyQueues ∧ t.reports = s.reports ∧ t.seats = s.seats ∧ t.deck = s.deck := by
  simp only [takeReference] at e
  split at e <;> cases e <;> exact ⟨rfl, rfl, rfl, rfl⟩

/-- An entry that takes a reference joins a lane with room. -/
theorem withinCapacity_join {s t : State} {g : Handle} (e : takeReference g s = some t) (i : LaneId) (content : Content)
    (origin : SpeechOrigin) (seat : Option Seat) (channel : Option Channel) (tag : Byte)
    (hroom : (s.lane i).length < laneSize i) (h : WithinCapacity s) :
    WithinCapacity (joinLane i content origin seat channel tag t) := by
  obtain ⟨hkeys, hreports, hseats, hdeck⟩ := takeReference_rest e
  have hlane := takeReference_lane e
  refine withinCapacity_lanes h (by simp [hkeys]) (by simp [hreports]) (by simp [hseats]) (by simp [hdeck]) fun j => ?_
  exact lane_joinLane_length i j _ _ _ _ _ (by rw [hlane]; exact hroom) (fun l => by rw [hlane]; exact lane_length_le h l)

theorem removeEntry_lane (i j : LaneId) (e : SpeechEntry) (s : State) :
    (removeEntry i e s).lane j = if j = i then (s.lane i).eraseP (fun x => decide (x.id = e.id)) else s.lane j := by
  simp only [removeEntry, State.lane_setLane]
  split
  · rfl
  · split <;> simp [State.lane]

/-- Every primitive move keeps the capacities. -/
theorem withinCapacity_kept : Kept WithinCapacity where
  same e h :=
    { keyQueues := by simpa only [State.keyQueue, e.keyQueues] using h.keyQueues
      system := by rw [e.lanes]; exact h.system
      prompt := fun k => by rw [e.lanes]; exact h.prompt k
      echo := fun k => by rw [e.lanes]; exact h.echo k
      reports := by rw [e.reports]; exact h.reports
      line := fun k => by rw [e.lines]; exact h.line k
      letters := fun w => by rw [e.letters]; exact h.letters w }
  reset := withinCapacity_reset
  keyLess k q hq h := withinCapacity_keyQueue k q (Nat.le_trans hq (h.keyQueues k)) h
  keyMore k e hroom h := withinCapacity_keyQueue k _ (by rw [List.length_append]; exact hroom) h
  line {s} k c hc h := by
    refine withinCapacity_seat k c ?_ h
    have hline := h.line k
    have htarget := target_length_le h k
    omega
  letters r hr h :=
    { keyQueues := h.keyQueues
      system := h.system
      prompt := h.prompt
      echo := h.echo
      reports := h.reports
      line := h.line
      letters := fun w => by
        simp only [storeWord, State.word_setWord]
        split
        · exact hr
        · exact h.letters w }
  record body hroom h :=
    { keyQueues := h.keyQueues
      system := h.system
      prompt := h.prompt
      echo := h.echo
      reports := by rw [takeRecord, refreshCauses, List.length_append]; exact hroom
      line := h.line
      letters := h.letters }
  recordLess n h :=
    { keyQueues := h.keyQueues
      system := h.system
      prompt := h.prompt
      echo := h.echo
      reports := by
        have := h.reports
        simp only [List.length_drop]
        omega
      line := h.line
      letters := h.letters }
  prompt k g origin tag hroom e h := withinCapacity_join e _ _ _ _ _ _ hroom h
  system g origin channel tag hroom e h := withinCapacity_join e _ _ _ _ _ _ hroom h
  echo k content _ hroom h :=
    withinCapacity_lanes h rfl rfl rfl rfl fun j => lane_joinLane_length _ j _ _ _ _ _ hroom (lane_length_le h)
  fullEcho {s} k content _ hfull h := by
    have hshort : (dropOldestQueued (s.lane (.echo k))).length < 8 :=
      Nat.lt_of_lt_of_le (dropOldestQueued_length_lt (by omega)) (h.echo k)
    refine withinCapacity_lanes h rfl rfl rfl rfl fun j => lane_joinLane_length _ j _ _ _ _ _ ?_ fun l => ?_
    · rw [State.lane_setLane_self]; exact hshort
    · rw [State.lane_setLane]
      split
      case isTrue hl => rw [hl]; exact Nat.le_of_lt hshort
      case isFalse => exact lane_length_le h l
  leave i e hmem h := by
    refine withinCapacity_lanes h (by simp) (by simp) (by simp) (by simp) fun j => ?_
    rw [removeEntry_lane]
    split
    case isTrue hj => rw [hj]; exact Nat.le_trans List.length_eraseP_le (lane_length_le h i)
    case isFalse => exact lane_length_le h j
  head i e e' rest hlane _ _ _ h := by
    refine withinCapacity_lanes h rfl rfl rfl rfl fun j => ?_
    rw [State.lane_setLane]
    split
    case isTrue hj =>
      have := lane_length_le h i
      rw [hlane] at this
      rw [hj]
      exact this
    case isFalse => exact lane_length_le h j
  store {s} g kind items _ _ _ h := withinCapacity_lanes h rfl rfl rfl rfl (lane_length_le (s := s) h)
  free g _ h := by
    refine withinCapacity_lanes h (by simp) (by simp) (by simp) (by simp) fun i => ?_
    rw [State.lane, freePhrase_frame g _ |>.2.2.2.2.2.2.2.1]
    exact lane_length_le h i

/-- Settles O5: the capacities are kept by every primitive move, and so by every step. -/
theorem capacityKeptEveryStep : Obligations.CapacityKeptEveryStep :=
  fun _ _ h e => withinCapacity_kept.step e h

end Sys2Proof.Proofs.Capacity
end

section
/-! PROOFS. Pages after every step (R97, R98): what leaves the free set joins a chain, and a chain that is given up goes
back whole. -/
namespace Sys2Proof.Proofs.Pages
open Sys2Proof Sys2Proof.Machine Sys2Proof.Safety

/-! ## How often a page is used -/

theorem sum_set_add_getElem {l : List Nat} {i : Nat} (h : i < l.length) (x : Nat) :
    (l.set i x).sum + l[i] = l.sum + x := by
  induction l generalizing i with
  | nil => exact absurd h (Nat.not_lt_zero i)
  | cons y ys ih =>
    cases i with
    | zero =>
      rw [List.set_cons_zero, List.sum_cons, List.sum_cons, List.getElem_cons_zero]
      omega
    | succ i =>
      have hrest := ih (Nat.lt_of_succ_lt_succ h)
      rw [List.set_cons_succ, List.sum_cons, List.sum_cons, List.getElem_cons_succ]
      omega

theorem getElem_le_sum {l : List Nat} {i : Nat} (h : i < l.length) : l[i] ≤ l.sum := by
  have hset := sum_set_add_getElem h 0
  omega

theorem sum_eq_zero {l : List Nat} (h : ∀ x ∈ l, x = 0) : l.sum = 0 := by
  induction l with
  | nil => rfl
  | cons x xs ih =>
    obtain ⟨hx, hxs⟩ := List.forall_mem_cons.mp h
    rw [List.sum_cons, hx, ih hxs]

/-- How often a page stands in each handle's chain. -/
def chainCounts (s : State) (p : Page) : List Nat := s.phrases.handles.toList.map fun r => r.chain.count p

theorem pageUses_eq (s : State) (p : Page) : pageUses s p = s.phrases.free.count p + (chainCounts s p).sum := rfl

theorem lt_length_chainCounts (s : State) (g : Handle) (p : Page) : g.val < (chainCounts s p).length := by
  rw [chainCounts, List.length_map, Vector.length_toList]
  exact g.isLt

theorem getElem_chainCounts (s : State) (g : Handle) (p : Page) :
    (chainCounts s p)[g.val]'(lt_length_chainCounts s g p) = (s.handle g).chain.count p := by
  simp only [chainCounts, List.getElem_map, Vector.getElem_toList]
  rfl

/-- One handle's chain is changed: the others count as before. -/
theorem sum_chainCounts_set {s t : State} {g : Handle} {r : HandleRecord}
    (h : t.phrases.handles = s.phrases.handles.set g.val r) (p : Page) :
    (chainCounts t p).sum + (s.handle g).chain.count p = (chainCounts s p).sum + r.chain.count p := by
  have hset : chainCounts t p = (chainCounts s p).set g.val (r.chain.count p) := by
    rw [chainCounts, h, Vector.toList_set, List.map_set, chainCounts]
  rw [hset, ← getElem_chainCounts]
  exact sum_set_add_getElem (lt_length_chainCounts s g p) _

/-- Pages move between the free set and one handle's chain. -/
theorem pageUses_eq_one {s t : State} {g : Handle} {r : HandleRecord} {p : Page} (h : PagesAccounted s)
    (hhandles : t.phrases.handles = s.phrases.handles.set g.val r)
    (hcount : t.phrases.free.count p + r.chain.count p = s.phrases.free.count p + (s.handle g).chain.count p) :
    pageUses t p = 1 := by
  have hsum := sum_chainCounts_set hhandles p
  have hbefore := h.once p
  rw [pageUses_eq] at hbefore ⊢
  omega

theorem handle_of_set {s t : State} {g : Handle} {r : HandleRecord}
    (h : t.phrases.handles = s.phrases.handles.set g.val r) (i : Handle) :
    t.handle i = if i = g then r else s.handle i := by
  rw [← State.handle_setHandle]
  simp only [State.handle, h, State.setHandle]

theorem count_add_count_le {s : State} (h : PagesAccounted s) (g : Handle) (p : Page) :
    s.phrases.free.count p + (s.handle g).chain.count p ≤ 1 := by
  have huses := h.once p
  have hone := getElem_le_sum (lt_length_chainCounts s g p)
  rw [getElem_chainCounts] at hone
  rw [pageUses_eq] at huses
  omega

/-! ## Giving pages back -/

theorem insertPage_perm (p : Page) (l : List Page) : (insertPage p l).Perm (p :: l) := by
  induction l with
  | nil => exact List.Perm.refl _
  | cons q rest ih =>
    unfold insertPage
    split
    · exact List.Perm.refl _
    · exact (List.Perm.cons q ih).trans (List.Perm.swap p q rest)

/-- A page that is not in the free set already finds its place in the rising order. -/
theorem insertPage_rising {p : Page} {l : List Page} (hp : p ∉ l) (h : l.Pairwise fun x y => x.val < y.val) :
    (insertPage p l).Pairwise fun x y => x.val < y.val := by
  induction l with
  | nil => exact List.pairwise_singleton _ _
  | cons q rest ih =>
    rw [List.mem_cons, not_or] at hp
    obtain ⟨hpq, hrest⟩ := hp
    obtain ⟨hq, htail⟩ := List.pairwise_cons.mp h
    unfold insertPage
    split
    case isTrue hlt =>
      refine List.pairwise_cons.mpr ⟨fun x hx => ?_, h⟩
      rcases List.mem_cons.mp hx with rfl | hx
      · exact hlt
      · exact Nat.lt_trans hlt (hq x hx)
    case isFalse hge =>
      refine List.pairwise_cons.mpr ⟨fun x hx => ?_, ih hrest htail⟩
      rcases List.mem_cons.mp ((insertPage_perm p rest).mem_iff.mp hx) with rfl | hx
      · exact Nat.lt_of_le_of_ne (Nat.le_of_not_lt hge) fun e => hpq (Fin.ext e.symm)
      · exact hq x hx

theorem count_freePages (chain free : List Page) (p : Page) :
    (freePages chain free).count p = free.count p + chain.count p := by
  unfold freePages
  induction chain generalizing free with
  | nil => rfl
  | cons q rest ih =>
    rw [List.foldl_cons, ih, (insertPage_perm q free).count_eq, List.count_cons, List.count_cons]
    omega

theorem freePages_rising {chain free : List Page} (hone : ∀ p, free.count p + chain.count p ≤ 1)
    (h : free.Pairwise fun x y => x.val < y.val) : (freePages chain free).Pairwise fun x y => x.val < y.val := by
  unfold freePages
  induction chain generalizing free with
  | nil => exact h
  | cons q rest ih =>
    refine ih (fun p => ?_) (insertPage_rising ?_ h)
    · have := hone p
      rw [(insertPage_perm q free).count_eq, List.count_cons]
      rw [List.count_cons] at this
      omega
    · have := hone q
      rw [List.count_cons_self] at this
      exact List.count_eq_zero.mp (by omega)

/-! ## The moves that touch phrase memory -/

theorem pagesAccounted_congr {s t : State} (h : PagesAccounted s) (hp : t.phrases = s.phrases) : PagesAccounted t where
  once p := by unfold pageUses; rw [hp]; exact h.once p
  rising := by rw [hp]; exact h.rising
  empty g := by simpa only [State.handle, hp] using h.empty g

/-- A handle's state or references change, and its chain stays. -/
theorem pagesAccounted_setHandle {s : State} (g : Handle) (r : HandleRecord) (hchain : r.chain = (s.handle g).chain)
    (hempty : r.state = .empty → (s.handle g).state = .empty) (h : PagesAccounted s) :
    PagesAccounted (s.setHandle g r) where
  once p := pageUses_eq_one h rfl (by rw [hchain]; rfl)
  rising := h.rising
  empty i hi := by
    rw [State.handle_setHandle] at hi ⊢
    split at hi
    case isTrue hig => rw [if_pos hig, hchain]; exact h.empty g (hempty hi)
    case isFalse hig => rw [if_neg hig]; exact h.empty i hi

theorem pagesAccounted_returnPages {s : State} (g : Handle) (h : PagesAccounted s) : PagesAccounted (returnPages g s) := by
  simp only [returnPages]
  split
  · constructor
    · exact fun p => pageUses_eq_one h (g := g) (r := .reset) rfl (count_freePages _ _ p)
    · exact freePages_rising (count_add_count_le h g) h.rising
    · intro i hi
      rw [handle_of_set (s := s) (g := g) rfl] at hi ⊢
      split
      · rfl
      · rename_i hig
        rw [if_neg hig] at hi
        exact h.empty i hi
  · exact h

theorem pagesAccounted_storePhrase {s : State} (g : Handle) (kind : HandleState) (items : List Item)
    (hg : (s.handle g).state = .empty) (hkind : kind ≠ .empty) (h : PagesAccounted s) :
    PagesAccounted (storePhrase g kind items s) where
  once p := by
    have hcount : (s.phrases.free.drop (pagesNeeded items.length)).count p
        + (s.phrases.free.take (pagesNeeded items.length)).count p = s.phrases.free.count p := by
      rw [Nat.add_comm, ← List.count_append, List.take_append_drop]
    refine pageUses_eq_one h (g := g) rfl (hcount.trans ?_)
    rw [h.empty g hg]
    rfl
  rising := h.rising.sublist (List.drop_sublist _ _)
  empty i hi := by
    rw [handle_of_set (s := s) (g := g) rfl] at hi ⊢
    split at hi
    · exact absurd hi hkind
    · rename_i hig
      rw [if_neg hig]
      exact h.empty i hi

theorem pagesAccounted_freePhrase {s : State} (g : Handle) (h : PagesAccounted s) : PagesAccounted (freePhrase g s) :=
  pagesAccounted_returnPages g (pagesAccounted_setHandle g _ rfl nofun h)

theorem pagesAccounted_releaseReference {s : State} (g : Handle) (h : PagesAccounted s) :
    PagesAccounted (releaseReference g s) :=
  pagesAccounted_returnPages g (pagesAccounted_setHandle g _ rfl id h)

theorem pagesAccounted_removeEntry {s : State} (i : LaneId) (e : SpeechEntry) (h : PagesAccounted s) :
    PagesAccounted (removeEntry i e s) := by
  simp only [removeEntry]
  split
  · exact pagesAccounted_congr (pagesAccounted_releaseReference _ h) rfl
  all_goals exact pagesAccounted_congr h rfl

/-- A reference that is taken leaves the handle's state KEPT or RELEASING (R103). -/
theorem takeReference_eq_some {g : Handle} {s t : State} (e : takeReference g s = some t) :
    ∃ state, state ≠ .empty ∧ (s.handle g).state ≠ .empty
      ∧ t = s.setHandle g { s.handle g with references := (s.handle g).references + 1, state := state } := by
  simp only [takeReference] at e
  split at e
  case h_1 hs =>
    cases e
    exact ⟨.kept, nofun, by rw [hs]; nofun, by rw [← hs]⟩
  case h_2 hs =>
    cases e
    exact ⟨.releasing, nofun, by rw [hs]; nofun, rfl⟩
  all_goals cases e

theorem pagesAccounted_takeReference {g : Handle} {s t : State} (e : takeReference g s = some t)
    (h : PagesAccounted s) : PagesAccounted t := by
  obtain ⟨state, hstate, -, rfl⟩ := takeReference_eq_some e
  exact pagesAccounted_setHandle g _ rfl (fun he => absurd he hstate) h

theorem free_reset_rising : PhraseMemory.reset.free.Pairwise fun p q => p.val < q.val := by
  refine List.pairwise_map.mpr (List.Pairwise.imp_of_mem (fun {x y} hx hy hxy => ?_) List.pairwise_lt_range)
  rw [Fin.val_ofNat, Fin.val_ofNat, Nat.mod_eq_of_lt (List.mem_range.mp hx), Nat.mod_eq_of_lt (List.mem_range.mp hy)]
  exact hxy

theorem mem_free_reset (p : Page) : p ∈ PhraseMemory.reset.free :=
  List.mem_map.mpr ⟨p.val, List.mem_range.mpr p.isLt, Fin.ext (Nat.mod_eq_of_lt p.isLt)⟩

theorem count_free_reset (p : Page) : PhraseMemory.reset.free.count p = 1 := by
  have hnodup : PhraseMemory.reset.free.Nodup := free_reset_rising.imp fun h e => Nat.ne_of_lt h (congrArg Fin.val e)
  rw [hnodup.count, if_pos (mem_free_reset p)]

theorem pagesAccounted_reset (s : State) : PagesAccounted (afterReset s) where
  once p := by
    have hzero : (chainCounts (afterReset s) p).sum = 0 := sum_eq_zero fun x hx => by
      obtain ⟨r, hr, rfl⟩ := List.mem_map.mp hx
      obtain rfl : r = .reset := Vector.eq_of_mem_replicate (Vector.mem_toList_iff.mp hr)
      rfl
    rw [pageUses_eq, hzero]
    exact count_free_reset p
  rising := free_reset_rising
  empty g _ := by simp [State.handle, afterReset, State.reset, PhraseMemory.reset, HandleRecord.reset]

/-- Every primitive move keeps the pages accounted for. -/
theorem pagesAccounted_kept : Kept PagesAccounted where
  same e h := pagesAccounted_congr h e.phrases
  reset := pagesAccounted_reset
  keyLess _ _ _ h := pagesAccounted_congr h rfl
  keyMore _ _ _ h := pagesAccounted_congr h rfl
  line _ _ _ h := pagesAccounted_congr h rfl
  letters _ _ h := pagesAccounted_congr h rfl
  record _ _ h := pagesAccounted_congr h (by simp)
  recordLess _ h := pagesAccounted_congr h rfl
  prompt _ _ _ _ _ e h := pagesAccounted_congr (pagesAccounted_takeReference e h) rfl
  system _ _ _ _ _ e h := pagesAccounted_congr (pagesAccounted_takeReference e h) rfl
  echo _ _ _ _ h := pagesAccounted_congr h rfl
  fullEcho _ _ _ _ h := pagesAccounted_congr h rfl
  leave i e _ h := pagesAccounted_removeEntry i e h
  head _ _ _ _ _ _ _ _ h := pagesAccounted_congr h rfl
  store g kind items hg hkind _ h := pagesAccounted_storePhrase g kind items hg hkind h
  free g _ h := pagesAccounted_freePhrase g h

/-- Settles O7: pages stay accounted for under every primitive move, and so under every step. -/
theorem pagesAccountedEveryStep : Obligations.PagesAccountedEveryStep :=
  fun _ _ h e => pagesAccounted_kept.step e h

end Sys2Proof.Proofs.Pages
end

section
/-! PROOFS. References after every step (R103, R104, R112): a PHRASE entry joins with a reference and gives it up when it
leaves. -/
namespace Sys2Proof.Proofs.References
open Sys2Proof Sys2Proof.Machine Sys2Proof.Safety Sys2Proof.Proofs.Pages Sys2Proof.Proofs.Capacity

/-! ## The claim lane by lane -/

/-- Whom an entry of a lane may name, and what it may hold (R112 to R114, R119). -/
def FitsLane : LaneId → SpeechEntry → Prop
  | .system, e => e.seat = none
  | .prompt k, e => e.seat = some k ∨ e.seat = none
  | .echo k, e => (e.seat = some k ∨ e.seat = none) ∧ ∀ h, e.content ≠ .phrase h

/-- A lane whose entries are numbered below the next number, never twice, and fit it. -/
structure LaneSound (next : Nat) (i : LaneId) (l : List SpeechEntry) : Prop where
  numbered : ∀ e ∈ l, e.id < next
  distinct : (l.map (·.id)).Nodup
  fits : ∀ e ∈ l, FitsLane i e

/-- The PHRASE entries of a lane's entries that name a handle. -/
def naming (g : Handle) (l : List SpeechEntry) : Nat := l.countP fun e => decide (e.content = .phrase g)

/-- The PHRASE entries of the three lanes that may hold one. -/
def waiting (s : State) (g : Handle) : Nat :=
  naming g (s.lane .system) + (naming g (s.lane (.prompt .a)) + naming g (s.lane (.prompt .b)))

theorem speechAccounted_iff (s : State) :
    SpeechAccounted s ↔ (∀ i, LaneSound s.nextEntryId i (s.lane i)) ∧ (∀ g, (s.handle g).references = waiting s g)
      ∧ ∀ g, (s.handle g).state = .empty → (s.handle g).references = 0 := by
  constructor
  · intro h
    refine ⟨fun i => ⟨h.numbered i, h.distinct i, fun e he => ?_⟩, h.references, h.empty⟩
    cases i with
    | system => exact h.unseated e he
    | prompt k => exact h.seated k e (List.mem_append_left _ he)
    | echo k => exact ⟨h.seated k e (List.mem_append_right _ he), h.echoes k e he⟩
  · rintro ⟨hlanes, hrefs, hempty⟩
    refine ⟨fun i => (hlanes i).numbered, fun i => (hlanes i).distinct, (hlanes .system).fits, fun k e he => ?_,
      fun k e he => ((hlanes (.echo k)).fits e he).2, hrefs, hempty⟩
    rcases List.mem_append.mp he with he | he
    · exact (hlanes (.prompt k)).fits e he
    · exact ((hlanes (.echo k)).fits e he).1

theorem naming_echo {next : Nat} {k : Seat} {l : List SpeechEntry} (h : LaneSound next (.echo k) l) (g : Handle) :
    naming g l = 0 :=
  List.countP_eq_zero.mpr fun e he => by simp [(h.fits e he).2 g]

/-! ## Lanes after a move -/

theorem LaneSound.sublist {next : Nat} {i : LaneId} {l m : List SpeechEntry} (h : LaneSound next i l) (hm : m.Sublist l) :
    LaneSound next i m where
  numbered e he := h.numbered e (hm.subset he)
  distinct := h.distinct.sublist (hm.map _)
  fits e he := h.fits e (hm.subset he)

theorem LaneSound.later {next : Nat} {i : LaneId} {l : List SpeechEntry} (h : LaneSound next i l) :
    LaneSound (next + 1) i l where
  numbered e he := Nat.lt_succ_of_lt (h.numbered e he)
  distinct := h.distinct
  fits := h.fits

theorem LaneSound.snoc {next : Nat} {i : LaneId} {l : List SpeechEntry} (h : LaneSound next i l) (e : SpeechEntry)
    (hid : e.id = next) (hfits : FitsLane i e) : LaneSound (next + 1) i (l ++ [e]) where
  numbered x hx := by
    rcases List.mem_append.mp hx with hx | hx
    · exact Nat.lt_succ_of_lt (h.numbered x hx)
    · rw [List.mem_singleton.mp hx, hid]; exact Nat.lt_succ_self _
  distinct := by
    rw [List.map_append, List.map_singleton, List.nodup_append]
    refine ⟨h.distinct, List.pairwise_singleton _ _, fun x hx y hy => ?_⟩
    obtain ⟨z, hz, rfl⟩ := List.mem_map.mp hx
    rw [List.mem_singleton.mp hy, hid]
    exact Nat.ne_of_lt (h.numbered z hz)
  fits x hx := by
    rcases List.mem_append.mp hx with hx | hx
    · exact h.fits x hx
    · rw [List.mem_singleton.mp hx]; exact hfits

theorem FitsLane.head {i : LaneId} {e e' : SpeechEntry} (h : FitsLane i e) (hcontent : e'.content = e.content)
    (hseat : e'.seat = e.seat ∨ e'.seat = none) : FitsLane i e' := by
  cases i with
  | system => rcases hseat with hs | hs <;> simp_all [FitsLane]
  | prompt k => rcases hseat with hs | hs <;> simp_all [FitsLane]
  | echo k => rcases hseat with hs | hs <;> simp_all [FitsLane]

theorem LaneSound.replaceHead {next : Nat} {i : LaneId} {e e' : SpeechEntry} {rest : List SpeechEntry}
    (h : LaneSound next i (e :: rest)) (hid : e'.id = e.id) (hcontent : e'.content = e.content)
    (hseat : e'.seat = e.seat ∨ e'.seat = none) : LaneSound next i (e' :: rest) where
  numbered x hx := by
    rcases List.mem_cons.mp hx with rfl | hx
    · rw [hid]; exact h.numbered e (List.mem_cons_self ..)
    · exact h.numbered x (List.mem_cons_of_mem _ hx)
  distinct := by
    have := h.distinct
    rw [List.map_cons] at this ⊢
    rwa [hid]
  fits x hx := by
    rcases List.mem_cons.mp hx with rfl | hx
    · exact (h.fits e (List.mem_cons_self ..)).head hcontent hseat
    · exact h.fits x (List.mem_cons_of_mem _ hx)

theorem naming_append (g : Handle) (l : List SpeechEntry) (e : SpeechEntry) :
    naming g (l ++ [e]) = naming g l + if e.content = .phrase g then 1 else 0 := by
  simp [naming, List.countP_append, List.countP_cons]

/-- The entry with a number leaves a lane in which no number stands twice. -/
theorem naming_eraseP {g : Handle} {l : List SpeechEntry} {e : SpeechEntry} (hmem : e ∈ l)
    (hdistinct : (l.map (·.id)).Nodup) :
    naming g (l.eraseP fun x => decide (x.id = e.id)) + (if e.content = .phrase g then 1 else 0) = naming g l := by
  induction l with
  | nil => cases hmem
  | cons x rest ih =>
    obtain ⟨hx, hrest⟩ := List.nodup_cons.mp hdistinct
    by_cases hid : x.id = e.id
    · have hxe : x = e := by
        rcases List.mem_cons.mp hmem with he | he
        · exact he.symm
        · exact absurd (List.mem_map.mpr ⟨e, he, hid.symm⟩) hx
      rw [List.eraseP_cons_of_pos (by simpa using hid), hxe, naming, naming, List.countP_cons]
      simp
    · have he : e ∈ rest := (List.mem_cons.mp hmem).resolve_left fun h => hid (by rw [h])
      have := ih he hrest
      rw [List.eraseP_cons_of_neg (by simpa using hid)]
      simp only [naming, List.countP_cons] at this ⊢
      omega

theorem dropOldestQueued_sublist (l : List SpeechEntry) : (dropOldestQueued l).Sublist l := by
  cases l with
  | nil => exact List.Sublist.refl _
  | cons e rest =>
    simp only [dropOldestQueued]
    split
    · exact List.sublist_cons_self ..
    · exact (List.tail_sublist rest).cons_cons e

/-- One lane is changed: the waiting PHRASE entries change as that lane's do. -/
theorem waiting_setLane (s : State) (i : LaneId) (l : List SpeechEntry) (g : Handle)
    (hecho : ∀ k, i = .echo k → naming g l = naming g (s.lane i)) :
    waiting (s.setLane i l) g + naming g (s.lane i) = waiting s g + naming g l := by
  cases i with
  | system => simp only [waiting, State.lane_setLane, reduceCtorEq, if_true, if_false]; omega
  | prompt k =>
    cases k <;> simp only [waiting, State.lane_setLane, reduceCtorEq, LaneId.prompt.injEq, if_true, if_false] <;> omega
  | echo k => rw [hecho k rfl]; rfl

/-! ## Handles after a move -/

theorem returnPages_handle (g i : Handle) (s : State) :
    (returnPages g s).handle i =
      if i = g ∧ (s.handle g).state = .releasing ∧ (s.handle g).references = 0 then .reset else s.handle i := by
  simp only [returnPages]
  by_cases hr : (s.handle g).state = .releasing ∧ (s.handle g).references = 0
  · rw [if_pos hr, handle_of_set (s := s) (g := g) rfl]
    simp only [hr, and_true]
  · rw [if_neg hr, if_neg fun h => hr h.2]

theorem returnPages_references (g i : Handle) (s : State) :
    ((returnPages g s).handle i).references = (s.handle i).references := by
  rw [returnPages_handle]
  split
  case isTrue h => rw [h.1, h.2.2]; rfl
  case isFalse => rfl

theorem returnPages_empty {g : Handle} {s : State} (h : ∀ i, (s.handle i).state = .empty → (s.handle i).references = 0)
    (i : Handle) (hi : ((returnPages g s).handle i).state = .empty) :
    ((returnPages g s).handle i).references = 0 := by
  rw [returnPages_handle] at hi ⊢
  split
  · rfl
  · rename_i hc
    rw [if_neg hc] at hi
    exact h i hi

theorem releaseReference_references (g i : Handle) (s : State) :
    ((releaseReference g s).handle i).references =
      if i = g then (s.handle g).references - 1 else (s.handle i).references := by
  simp only [releaseReference, returnPages_references, State.handle_setHandle]
  split <;> rfl

theorem releaseReference_empty {g : Handle} {s : State}
    (h : ∀ i, (s.handle i).state = .empty → (s.handle i).references = 0) (i : Handle)
    (hi : ((releaseReference g s).handle i).state = .empty) : ((releaseReference g s).handle i).references = 0 := by
  refine returnPages_empty (fun j hj => ?_) i hi
  rw [State.handle_setHandle] at hj ⊢
  split at hj
  case isTrue hjg => rw [if_pos hjg]; exact Nat.sub_eq_zero_of_le (by rw [h g hj]; exact Nat.zero_le 1)
  case isFalse hjg => rw [if_neg hjg]; exact h j hj

/-! ## The moves -/

theorem speechAccounted_congr {s t : State} (h : SpeechAccounted s) (hlanes : ∀ i, t.lane i = s.lane i)
    (hnext : t.nextEntryId = s.nextEntryId) (hphrases : t.phrases = s.phrases) : SpeechAccounted t := by
  rw [speechAccounted_iff] at h ⊢
  simpa only [waiting, hlanes, hnext, State.handle, hphrases] using h

theorem speechAccounted_reset (s : State) : SpeechAccounted (afterReset s) := by
  have hlane : ∀ i, (afterReset s).lane i = [] := fun i => by
    cases i with
    | system => rfl
    | prompt k => cases k <;> rfl
    | echo k => cases k <;> rfl
  have hhandle : ∀ g, ((afterReset s).handle g).references = 0 := fun g => by
    simp [State.handle, afterReset, State.reset, PhraseMemory.reset, HandleRecord.reset]
  rw [speechAccounted_iff]
  refine ⟨fun i => ?_, fun g => ?_, fun g _ => hhandle g⟩
  · rw [hlane i]
    exact ⟨fun _ h => absurd h List.not_mem_nil, List.nodup_nil, fun _ h => absurd h List.not_mem_nil⟩
  · rw [hhandle g]
    simp only [waiting, hlane, naming, List.countP_nil]

/-- A PHRASE entry joins a lane with the reference it takes (R103, R112). -/
theorem speechAccounted_joinPhrase {s t : State} {g : Handle} (e : takeReference g s = some t) {i : LaneId}
    (hi : ∀ k, i ≠ .echo k) (origin : SpeechOrigin) (seat : Option Seat) (channel : Option Channel) (tag : Byte)
    (hseat : ∀ x : SpeechEntry, x.seat = seat → FitsLane i x) (h : SpeechAccounted s) :
    SpeechAccounted (joinLane i (.phrase g) origin seat channel tag t) := by
  obtain ⟨state, hstate, -, rfl⟩ := takeReference_eq_some e
  rw [speechAccounted_iff] at h ⊢
  obtain ⟨hlanes, hrefs, hempty⟩ := h
  refine ⟨fun j => ?_, fun x => ?_, fun x hx => ?_⟩
  · change LaneSound (s.nextEntryId + 1) j ((State.setLane _ i _).lane j)
    rw [State.lane_setLane]
    split
    case isTrue hj =>
      subst hj
      exact (hlanes j).snoc _ rfl (hseat _ rfl)
    case isFalse => exact (hlanes j).later
  · have hw := waiting_setLane s i (s.lane i ++ [freshEntry s (.phrase g) origin seat channel tag]) x
      (fun k hk => absurd hk (hi k))
    have hcontent : (freshEntry s (.phrase g) origin seat channel tag).content = .phrase g := rfl
    rw [naming_append, hcontent] at hw
    have hr := hrefs x
    change ((s.setHandle g _).handle x).references
      = waiting (s.setLane i (s.lane i ++ [freshEntry s (.phrase g) origin seat channel tag])) x
    rw [State.handle_setHandle]
    by_cases hxg : x = g
    · subst hxg
      rw [if_pos rfl] at hw ⊢
      dsimp only
      omega
    · rw [if_neg fun e => hxg (Content.phrase.inj e).symm] at hw
      rw [if_neg hxg]
      omega
  · change ((s.setHandle g _).handle x).references = 0
    change ((s.setHandle g _).handle x).state = _ at hx
    rw [State.handle_setHandle] at hx ⊢
    split at hx
    · exact absurd hx hstate
    case isFalse hxg => rw [if_neg hxg]; exact hempty x hx

/-- An echo joins what a lane's oldest entries may have left (R119). -/
theorem speechAccounted_joinEcho {s : State} (k : Seat) (content : Content) (hcontent : ∀ g, content ≠ .phrase g)
    {l : List SpeechEntry} (hl : l.Sublist (s.lane (.echo k))) (h : SpeechAccounted s) :
    SpeechAccounted (joinLane (.echo k) content .drillEcho (some k) none 0 (s.setLane (.echo k) l)) := by
  rw [speechAccounted_iff] at h ⊢
  obtain ⟨hlanes, hrefs, hempty⟩ := h
  refine ⟨fun j => ?_, hrefs, hempty⟩
  change LaneSound (s.nextEntryId + 1) j ((State.setLane _ (.echo k) _).lane j)
  rw [State.lane_setLane]
  split
  case isTrue hj =>
    subst hj
    rw [State.lane_setLane_self]
    exact ((hlanes (.echo k)).sublist hl).snoc _ rfl ⟨.inl rfl, hcontent⟩
  case isFalse hj =>
    rw [State.lane_setLane, if_neg hj]
    exact (hlanes j).later

/-- An entry leaves its lane, and a PHRASE gives up its reference (R104, R117). -/
theorem speechAccounted_removeEntry {s : State} {i : LaneId} {e : SpeechEntry} (hmem : e ∈ s.lane i)
    (h : SpeechAccounted s) : SpeechAccounted (removeEntry i e s) := by
  rw [speechAccounted_iff] at h ⊢
  obtain ⟨hlanes, hrefs, hempty⟩ := h
  have hnaming : ∀ g, naming g ((s.lane i).eraseP fun x => decide (x.id = e.id))
      + (if e.content = .phrase g then 1 else 0) = naming g (s.lane i) := fun g => naming_eraseP hmem (hlanes i).distinct
  have hwaiting : ∀ g, waiting (removeEntry i e s) g + (if e.content = .phrase g then 1 else 0) = waiting s g := by
    intro g
    have hlane : waiting (removeEntry i e s) g
        = waiting (s.setLane i ((s.lane i).eraseP fun x => decide (x.id = e.id))) g := by
      simp only [waiting, removeEntry_lane, State.lane_setLane]
    have hw := waiting_setLane s i ((s.lane i).eraseP fun x => decide (x.id = e.id)) g fun k hk => by
      subst hk
      rw [naming_echo (hlanes _) g, naming_echo ((hlanes _).sublist List.eraseP_sublist) g]
    rw [hlane]
    have := hnaming g
    omega
  refine ⟨fun j => ?_, fun g => ?_, fun g hg => ?_⟩
  · rw [removeEntry_lane, (removeEntry_frame i e s).2.2.2.2.2.2.2.2.2.2.2.2.1]
    split
    case isTrue hj => rw [hj]; exact (hlanes i).sublist List.eraseP_sublist
    case isFalse => exact hlanes j
  · have hw := hwaiting g
    have hr := hrefs g
    simp only [removeEntry] at hw ⊢
    split at hw
    case h_1 x hx =>
      rw [State.handle_setLane, releaseReference_references]
      by_cases hgx : g = x
      · subst hgx
        rw [hx, if_pos rfl] at hw
        rw [if_pos rfl]
        omega
      · rw [hx, if_neg fun e => hgx (Content.phrase.inj e).symm] at hw
        rw [if_neg hgx]
        omega
    all_goals
      rename_i hx
      rw [hx, if_neg nofun] at hw
      rw [State.handle_setLane]
      omega
  · simp only [removeEntry] at hg ⊢
    split at hg
    · exact releaseReference_empty hempty g hg
    all_goals exact hempty g hg

theorem speechAccounted_head {s : State} {i : LaneId} {e e' : SpeechEntry} {rest : List SpeechEntry}
    (hlane : s.lane i = e :: rest) (hid : e'.id = e.id) (hcontent : e'.content = e.content)
    (hseat : e'.seat = e.seat ∨ e'.seat = none) (h : SpeechAccounted s) :
    SpeechAccounted (s.setLane i (e' :: rest)) := by
  rw [speechAccounted_iff] at h ⊢
  obtain ⟨hlanes, hrefs, hempty⟩ := h
  have hnaming : ∀ g, naming g (e' :: rest) = naming g (s.lane i) := fun g => by
    rw [hlane]; simp only [naming, List.countP_cons, hcontent]
  refine ⟨fun j => ?_, fun g => ?_, hempty⟩
  · change LaneSound s.nextEntryId j ((s.setLane i _).lane j)
    rw [State.lane_setLane]
    split
    case isTrue hj =>
      subst hj
      exact LaneSound.replaceHead (hlane ▸ hlanes j) hid hcontent hseat
    case isFalse => exact hlanes j
  · have := waiting_setLane s i (e' :: rest) g fun _ _ => hnaming g
    rw [hnaming g] at this
    rw [State.handle_setLane, hrefs g]
    omega

/-- A handle is written or freed while its references stay. -/
theorem speechAccounted_handles {s t : State} (h : SpeechAccounted s) (hlanes : ∀ i, t.lane i = s.lane i)
    (hnext : t.nextEntryId = s.nextEntryId) (hrefs : ∀ g, (t.handle g).references = (s.handle g).references)
    (hempty : ∀ g, (t.handle g).state = .empty → (t.handle g).references = 0) : SpeechAccounted t := by
  rw [speechAccounted_iff] at h ⊢
  obtain ⟨hl, hr, -⟩ := h
  refine ⟨fun i => by rw [hlanes, hnext]; exact hl i, fun g => ?_, hempty⟩
  rw [hrefs, hr]
  simp only [waiting, hlanes]

theorem speechAccounted_storePhrase {s : State} (g : Handle) (kind : HandleState) (items : List Item)
    (hg : (s.handle g).state = .empty) (hkind : kind ≠ .empty) (h : SpeechAccounted s) :
    SpeechAccounted (storePhrase g kind items s) := by
  refine speechAccounted_handles h (fun _ => rfl) rfl (fun x => ?_) (fun x hx => ?_)
  · rw [handle_of_set (s := s) (g := g) rfl]
    split
    case isTrue hx => rw [hx, h.empty g hg]
    case isFalse => rfl
  · rw [handle_of_set (s := s) (g := g) rfl] at hx ⊢
    split at hx
    · exact absurd hx hkind
    case isFalse hxg => rw [if_neg hxg]; exact h.empty x hx

theorem speechAccounted_freePhrase {s : State} (g : Handle) (h : SpeechAccounted s) :
    SpeechAccounted (freePhrase g s) := by
  refine speechAccounted_handles h (fun i => by simp [State.lane]) (by simp) (fun x => ?_) (fun x hx => ?_)
  · rw [freePhrase, returnPages_references, State.handle_setHandle]
    split
    case isTrue hx => rw [hx]
    case isFalse => rfl
  · refine returnPages_empty (fun y hy => ?_) x hx
    rw [State.handle_setHandle] at hy ⊢
    split at hy
    · cases hy
    case isFalse hyg => rw [if_neg hyg]; exact h.empty y hy

/-- Every primitive move keeps the speech entries accounted for. -/
theorem speechAccounted_kept : Kept SpeechAccounted where
  same e h := speechAccounted_congr h e.lanes e.nextEntryId e.phrases
  reset := speechAccounted_reset
  keyLess _ _ _ h := speechAccounted_congr h (fun _ => rfl) rfl rfl
  keyMore _ _ _ h := speechAccounted_congr h (fun _ => rfl) rfl rfl
  line _ _ _ h := speechAccounted_congr h (fun _ => rfl) rfl rfl
  letters _ _ h := speechAccounted_congr h (fun _ => rfl) rfl rfl
  record _ _ h := speechAccounted_congr h (fun _ => by simp [State.lane]) (by simp) (by simp)
  recordLess _ h := speechAccounted_congr h (fun _ => rfl) rfl rfl
  prompt k _ origin tag _ e h := 
    speechAccounted_joinPhrase e (i := .prompt k) nofun origin (some k) none tag (fun _ hx => .inl hx) h
  system _ origin channel tag _ e h := 
    speechAccounted_joinPhrase e (i := .system) nofun origin none channel tag (fun _ hx => hx) h
  echo {s} k content hcontent _ h := by
    have := speechAccounted_joinEcho k content hcontent (List.Sublist.refl (s.lane (.echo k))) h
    refine speechAccounted_congr this (fun i => ?_) rfl rfl
    cases i <;> cases k <;> rfl
  fullEcho k content hcontent _ h := speechAccounted_joinEcho k content hcontent (dropOldestQueued_sublist _) h
  leave _ _ hmem h := speechAccounted_removeEntry hmem h
  head _ _ _ _ hlane hid hcontent hseat h := speechAccounted_head hlane hid hcontent hseat h
  store g kind items hg hkind _ h := speechAccounted_storePhrase g kind items hg hkind h
  free g _ h := speechAccounted_freePhrase g h

/-- Settles O8: references stay counted under every primitive move, and so under every step. -/
theorem referencesCountedEveryStep : Obligations.ReferencesCountedEveryStep :=
  fun _ _ h e => speechAccounted_kept.step e h

end Sys2Proof.Proofs.References
end

section
/-! PROOFS. Steps, resets, and the frames of the Lesson Port that carry nothing out. -/
namespace Sys2Proof.Proofs.Frames
open Sys2Proof Sys2Proof.Machine Sys2Proof.Safety
open Sys2Proof.Proofs.Lines Sys2Proof.Proofs.Images Sys2Proof.Proofs.Capacity Sys2Proof.Proofs.Pages
open Sys2Proof.Proofs.References

/-! ## Steps -/

theorem goes_exec (c : Instr) (s : State) : Goes (exec c s) := by
  cases c <;> exact ⟨_, rfl⟩

theorem step_of_idle {s : State} (h : s.pending = []) : step s = .next s := by
  rw [step, h]

theorem goes_step (s : State) : Goes (step s) := by
  unfold step
  split
  · exact ⟨_, rfl⟩
  · exact goes_exec _ _

/-- Settles O1: `step` is `exec` of the front command, and every arm of `exec` answers a next state. -/
theorem stepRunsFrontCommand : Obligations.StepRunsFrontCommand :=
  ⟨⟨fun _ _ _ => rfl, fun _ => step_of_idle⟩, goes_exec, goes_step⟩

/-! ## Resets -/

theorem word_reset (s : State) (w : WordIndex) : (afterReset s).word w = .reset := by
  simp [State.word, afterReset, State.reset, Deck.reset]

theorem handle_reset (s : State) (g : Handle) : (afterReset s).handle g = .reset := by
  simp [State.handle, afterReset, State.reset, PhraseMemory.reset]

theorem lane_reset (s : State) (i : LaneId) : (afterReset s).lane i = [] := by
  cases i with
  | system => rfl
  | prompt k => cases k <;> rfl
  | echo k => cases k <;> rfl

/-- A reset puts every block at the values its chapter gives (R182). -/
theorem resetValues_afterReset (s : State) : ResetValues (afterReset s) where
  clock := rfl
  timing := rfl
  keys m := by cases m <;> exact ⟨rfl, rfl, rfl, rfl, rfl, rfl⟩
  queues k := by cases k <;> exact ⟨rfl, rfl⟩
  words w := by rw [word_reset]; exact ⟨rfl, rfl, rfl, rfl⟩
  progress w k := by rw [State.progress, word_reset]; cases k <;> rfl
  intervals := rfl
  seats k := by cases k <;> rfl
  handles := handle_reset s
  free := ⟨by simp [afterReset, State.reset, PhraseMemory.reset], mem_free_reset⟩
  lanes := ⟨lane_reset s, rfl, fun k => by cases k <;> rfl⟩
  link := ⟨rfl, rfl, rfl, rfl, rfl, rfl, rfl, rfl, rfl, rfl⟩
  reports := ⟨rfl, rfl, rfl, rfl, rfl, rfl, rfl⟩
  images k := by cases k <;> exact ⟨rfl, rfl, rfl⟩
  pointer := rfl
  port := ⟨rfl, rfl⟩
  pins := rfl

/-- The reset state is what a reset of it gives. -/
theorem afterReset_reset : afterReset State.reset = State.reset := rfl

/-- Settles O2: the reset state has the reset values, and so every invariant that a reset establishes. -/
theorem resetStateIsSound : Obligations.ResetStateIsSound := by
  unfold Obligations.ResetStateIsSound
  rw [← afterReset_reset]
  exact ⟨resetValues_afterReset _, rfl, ⟨rfl, rfl⟩, linesFollow_afterReset _, withinCapacity_reset _,
    images_afterReset _, pagesAccounted_reset _, speechAccounted_reset _⟩

/-- A read in progress is abandoned with its start and the snapshot it was sent from (R170). -/
theorem read_afterReset (s : State) :
    (s.mirror.read = .none → (afterReset s).mirror.read = .none)
    ∧ (∀ start, s.mirror.read = .reading start → (afterReset s).mirror.read = .abandoned start s.mirror.snapshot)
    ∧ ∀ start before, s.mirror.read = .abandoned start before →
        (afterReset s).mirror.read = .abandoned start before := by
  have hread : (afterReset s).mirror.read = abandonRead s.mirror := rfl
  rw [hread, abandonRead]
  exact ⟨fun h => by rw [h], fun _ h => by rw [h], fun _ _ h => by rw [h]⟩

theorem exec_resetPart {s : State} (h : PortIdle s) :
    exec (.resetPart .frameEnd) s = .next (afterReset (carriedFrom s [])) :=
  congrArg Host.Outcome.next (lessonFrame_accepted h rfl)

/-- Settles O3: both resets come to `afterReset`, RESET_PART from the state at the end of its frame. -/
theorem resetsRestoreThePart : Obligations.ResetsRestoreThePart :=
  ⟨fun s => ⟨afterReset s, rfl, resetValues_afterReset s, rfl, rfl, read_afterReset s⟩,
    fun s h => ⟨_, exec_resetPart h, resetValues_afterReset _, rfl, ⟨rfl, rfl⟩, read_afterReset (carriedFrom s [])⟩⟩

/-! ## The status byte -/

/-- The status byte is a sum of a code below 8 and one weight for each flag: bit by bit over all flags. -/
theorem statusBits (o : LessonOutcome) (attn fault a b : Bool) :
    let x := byteOf ((outcomeCode o).toNat + (if attn then 16 else 0) + (if fault then 32 else 0)
      + (if a then 64 else 0) + (if b then 128 else 0))
    x.extractLsb' 0 4 = (outcomeCode o).extractLsb' 0 4 ∧ x.getLsbD 4 = attn ∧ x.getLsbD 5 = fault
      ∧ x.getLsbD 6 = a ∧ x.getLsbD 7 = b := by
  revert attn fault a b
  cases o <;> decide

theorem exec_statusByte {s : State} (h : PortIdle s) : exec .statusByte s = .next (openFrame s) := by
  rw [exec, execStatusByte, fallOfLcs, h.1]
  rfl

/-- Settles O9: from an idle port the fall of LCS opens a frame, with the byte's bits one by one. -/
theorem statusByteShowsThePart : Obligations.StatusByteShowsThePart := by
  intro s hidle
  obtain ⟨hcode, hattn, hfault, ha, hb⟩ := statusBits s.port.lastOutcome s.pins.attn s.reports.fault.isSome
    (s.seat .a).outOfOff (s.seat .b).outOfOff
  refine ⟨statusByte s, by rw [exec_statusByte hidle, openFrame_of_idle hidle], hcode, hattn, ?_, ?_, ?_⟩
  · rw [← Option.isSome_iff_ne_none]
    exact Bool.eq_iff_iff.mp hfault
  · exact (Bool.eq_iff_iff.mp ha).trans decide_eq_true_iff
  · exact (Bool.eq_iff_iff.mp hb).trans decide_eq_true_iff

/-! ## Short frames, and frames in two stages -/

theorem exec_shortFrame (s : State) : exec .shortFrame s = .next (endFrame (openFrame s)) := rfl

theorem openFrame_of_low {s : State} (h : s.port.lcsLow = true) : openFrame s = s := if_pos h

/-- Settles O10: what the end of a frame does in each state of the decoder without a complete request. -/
theorem shortFrameChangesNothing : Obligations.ShortFrameChangesNothing := by
  intro s
  refine ⟨fun hidle => ?_, fun hlow hframe => ?_, fun hlow hframe => ?_⟩
  · rw [exec_shortFrame, openFrame_of_idle hidle]
    rfl
  · rw [exec_shortFrame, openFrame_of_low hlow, endFrame, hframe]
    rfl
  · rw [exec_shortFrame, openFrame_of_low hlow, endFrame, hframe]
    simp only [closePort, hframe]

/-- Two instructions that are checked and carried out alike. -/
def SameRequest (i j : Instr) : Prop :=
  (∀ t, checkRequest i t = checkRequest j t) ∧ ∀ n t, carryOut i n t = carryOut j n t

theorem sameRequest_ite {c : Prop} [Decidable c] {i j d e : Instr} {x y : Option Instr} (hthen : SameRequest i j)
    (helse : SameRequest (x.getD d) (y.getD e)) :
    SameRequest ((if c then some i else x).getD d) ((if c then some j else y).getD e) := by
  by_cases h : c
  · rw [if_pos h, if_pos h]
    exact hthen
  · rw [if_neg h, if_neg h]
    exact helse

/-- The two stages of a listed code stand for the same command, checked and carried out alike (log 23). -/
theorem codeAlone_stages (code : Byte) :
    let i := (codeAlone .request code).getD (.unknownCommand .request code)
    let j := (codeAlone .frameEnd code).getD (.unknownCommand .frameEnd code)
    (∀ t, checkRequest i t = checkRequest j t) ∧ ∀ n t, carryOut i n t = carryOut j n t :=
  sameRequest_ite ⟨fun _ => rfl, fun _ _ => rfl⟩ <| sameRequest_ite ⟨fun _ => rfl, fun _ _ => rfl⟩ <|
    sameRequest_ite ⟨fun _ => rfl, fun _ _ => rfl⟩ <| sameRequest_ite ⟨fun _ => rfl, fun _ _ => rfl⟩ <|
    sameRequest_ite ⟨fun _ => rfl, fun _ _ => rfl⟩ <| sameRequest_ite ⟨fun _ => rfl, fun _ _ => rfl⟩
      ⟨fun _ => rfl, fun _ _ => rfl⟩

theorem exec_request {i : Instr} (h : stageOf i = some .request) (s : State) :
    ∃ j, exec i s = .next (lessonFrame .request j s) := by
  cases i <;> cases h <;> exact ⟨_, rfl⟩

theorem endFrame_of_request {i : Instr} {s t : State} (h : stageOf i = some .request) (hidle : PortIdle s)
    (e : exec i s = .next t) : exec .shortFrame t = exec (atFrameEnd i) s := by
  cases i <;> cases h <;> cases e
  case unknownCommand.refl.refl code =>
    obtain ⟨hcheck, hcarry⟩ := codeAlone_stages code
    exact congrArg Host.Outcome.next (endFrame_after_request hidle hcheck hcarry)
  all_goals exact congrArg Host.Outcome.next (endFrame_after_request hidle (fun _ => rfl) fun _ _ => rfl)

/-- Settles O12: the last request byte changes the port alone, and the rise of LCS then carries out what the request of the
whole frame carries out. -/
theorem requestTakesEffectAtFrameEnd : Obligations.RequestTakesEffectAtFrameEnd := by
  refine ⟨fun i s h => ?_, fun i s t => endFrame_of_request⟩
  obtain ⟨j, hj⟩ := exec_request h s
  obtain ⟨p, hp⟩ := lessonFrame_request j s
  exact ⟨p, by rw [hj, hp]⟩

end Sys2Proof.Proofs.Frames
end

section
/-! PROOFS. What a request's bytes are refused for (R176, R178, R180). -/
namespace Sys2Proof.Proofs.Refusals
open Sys2Proof Sys2Proof.Machine Sys2Proof.Safety

/-! ## Bytes out of range -/

theorem ne_of_toNat_ne {x y : Byte} (h : x.toNat ≠ y.toNat) : x ≠ y := fun e => h (congrArg BitVec.toNat e)

theorem readSeatByte_none {x : Byte} (h : 2 ≤ x.toNat) : readSeatByte x = none := by
  have h0 : x ≠ 0 := ne_of_toNat_ne (by simp; omega)
  have h1 : x ≠ 1 := ne_of_toNat_ne (by simp; omega)
  rw [readSeatByte, if_neg h0, if_neg h1]

theorem readFlagByte_none {x : Byte} (h : 2 ≤ x.toNat) : readFlagByte x = none := by
  have h0 : x ≠ 0 := ne_of_toNat_ne (by simp; omega)
  have h1 : x ≠ 1 := ne_of_toNat_ne (by simp; omega)
  rw [readFlagByte, if_neg h0, if_neg h1]

theorem readCheckMode_none {x : Byte} (h : 2 ≤ x.toNat) : readCheckMode x = none := by
  have h0 : x ≠ 0 := ne_of_toNat_ne (by simp; omega)
  have h1 : x ≠ 1 := ne_of_toNat_ne (by simp; omega)
  rw [readCheckMode, if_neg h0, if_neg h1]

theorem readWordByte_none {x : Byte} (h : 128 ≤ x.toNat) : readWordByte x = none :=
  dif_neg (Nat.not_lt_of_le h)

theorem readHandleByte_none {x : Byte} (h : 48 ≤ x.toNat) : readHandleByte x = none :=
  dif_neg (Nat.not_lt_of_le h)

theorem readHandleOrNone_none {x : Byte} (h : 48 ≤ x.toNat) (hx : x ≠ 255) : readHandleOrNone x = none := by
  rw [readHandleOrNone, if_neg (c := x = Config.filler) hx, readHandleByte_none h]
  rfl

theorem readWordOrNone_none {x : Byte} (h : 128 ≤ x.toNat) (hx : x ≠ 255) : readWordOrNone x = none := by
  rw [readWordOrNone, if_neg (c := x = Config.filler) hx, readWordByte_none h]
  rfl

theorem readVerdict_none {x : Byte} (h : 5 ≤ x.toNat) : readVerdict x = none := by
  have h0 : x ≠ 0 := ne_of_toNat_ne (by simp; omega)
  have h1 : x ≠ 1 := ne_of_toNat_ne (by simp; omega)
  have h2 : x ≠ 2 := ne_of_toNat_ne (by simp; omega)
  have h3 : x ≠ 3 := ne_of_toNat_ne (by simp; omega)
  have h4 : x ≠ 4 := ne_of_toNat_ne (by simp; omega)
  rw [readVerdict, if_neg h0, if_neg h1, if_neg h2, if_neg h3, if_neg h4]

theorem readChannel_none {x : Byte} (h : 3 ≤ x.toNat) : readChannel x = none := by
  have h0 : x ≠ 0 := ne_of_toNat_ne (by simp; omega)
  have h1 : x ≠ 1 := ne_of_toNat_ne (by simp; omega)
  have h2 : x ≠ 2 := ne_of_toNat_ne (by simp; omega)
  rw [readChannel, if_neg h0, if_neg h1, if_neg h2]

theorem readSayTarget_none {x y : Byte} (h : 3 ≤ x.toNat ∨ (x = 0 ∧ 3 ≤ y.toNat)) : readSayTarget x y = none := by
  rcases h with h | ⟨rfl, h⟩
  · have h0 : x ≠ 0 := ne_of_toNat_ne (by simp; omega)
    have h1 : x ≠ 1 := ne_of_toNat_ne (by simp; omega)
    have h2 : x ≠ 2 := ne_of_toNat_ne (by simp; omega)
    rw [readSayTarget, if_neg h0, if_neg h1, if_neg h2]
  · rw [readSayTarget, if_pos rfl, readChannel_none h]
    rfl

theorem readPhraseKind_none {x : Byte} (h1 : x ≠ 1) (h2 : x ≠ 2) : readPhraseKind x = none := by
  rw [readPhraseKind, if_neg h1, if_neg h2]

/-! ## Whole contents out of range -/

theorem readProgressTarget_none {x y : Byte} (h : 128 ≤ x.toNat ∨ 2 ≤ y.toNat) : readProgressTarget x y = none := by
  unfold readProgressTarget
  rcases h with h | h
  · rw [readWordByte_none h]
  · rw [readSeatByte_none h]
    cases readWordByte x <;> rfl

theorem readProgressRequest_none {x y v streak : Byte} {mastery due seen : TwoBytes}
    (h : 128 ≤ x.toNat ∨ 2 ≤ y.toNat ∨ 5 ≤ v.toNat) :
    readProgressRequest x y mastery due streak seen v = none := by
  unfold readProgressRequest
  rcases h with h | h | h
  · rw [readWordByte_none h]
  · rw [readSeatByte_none h]
    cases readWordByte x <;> rfl
  · rw [readVerdict_none h]
    cases readWordByte x <;> cases readSeatByte y <;> rfl

theorem readSayRequest_none {x y z : Byte} (h : 48 ≤ x.toNat ∨ 3 ≤ y.toNat ∨ (y = 0 ∧ 3 ≤ z.toNat)) :
    readSayRequest x y z = none := by
  unfold readSayRequest
  rcases h with h | h
  · rw [readHandleByte_none h]
  · rw [readSayTarget_none h]
    cases readHandleByte x <;> rfl

theorem readFeedbackRequest_none {x y : Byte}
    (h : (8 ≤ x.toNat ∧ x ≠ 255) ∨ (x.toNat < 8 ∧ 48 ≤ y.toNat ∧ y ≠ 255)) : readFeedbackRequest x y = none := by
  have hx : x ≠ 255 := h.elim And.right fun h => ne_of_toNat_ne (by simp; omega)
  rw [readFeedbackRequest, if_neg (c := x = Config.filler) hx]
  rcases h with ⟨hslot, -⟩ | ⟨-, hhandle, hy⟩
  · rw [readSlot, dif_neg (Nat.not_lt_of_le hslot)]
  · rw [readHandleOrNone_none hhandle hy]
    cases readSlot x <;> rfl

theorem readNextRequest_none {x y : Byte} (s : State) (h : 2 ≤ x.toNat ∨ (128 ≤ y.toNat ∧ y ≠ 255)) :
    readNextRequest x y s = none := by
  unfold readNextRequest
  rcases h with h | ⟨h, hy⟩
  · rw [readSeatByte_none h]
  · rw [readWordOrNone_none h hy]
    cases readSeatByte x <;> rfl

theorem readNextRequest_disabled (x : Byte) {w : WordIndex} {s : State} (h : (s.word w).enabled = false) :
    readNextRequest x (byteOf w.val) s = none := by
  unfold readNextRequest
  rw [readWordOrNone_code]
  cases readSeatByte x
  · rfl
  · exact if_neg (by rw [h]; exact Bool.false_ne_true)

theorem readSettingsRequest_none {seat check tries gain echo bargeIn autoNext flush timeout limit : Byte}
    (h : 2 ≤ seat.toNat ∨ 2 ≤ check.toNat ∨ 2 ≤ echo.toNat ∨ 2 ≤ bargeIn.toNat ∨ 2 ≤ autoNext.toNat
      ∨ 2 ≤ flush.toNat) :
    readSettingsRequest seat check tries gain echo bargeIn autoNext flush timeout limit = none := by
  have hnone : readSeatByte seat = none ∨ readCheckMode check = none ∨ readFlagByte echo = none
      ∨ readFlagByte bargeIn = none ∨ readFlagByte autoNext = none ∨ readFlagByte flush = none :=
    h.imp readSeatByte_none (·.imp readCheckMode_none (·.imp readFlagByte_none (·.imp readFlagByte_none
      (·.imp readFlagByte_none readFlagByte_none))))
  unfold readSettingsRequest
  split
  · rename_i h1 h2 h3 h4 h5 h6
    simp only [h1, h2, h3, h4, h5, h6, reduceCtorEq, or_self] at hnone
  · rfl

theorem readKeymapRequest_none {matrix diodes : Byte} {codes : List Byte} (h : 2 ≤ matrix.toNat ∨ 2 ≤ diodes.toNat) :
    readKeymapRequest matrix diodes codes = none := by
  unfold readKeymapRequest
  rcases h with h | h
  · rw [readSeatByte_none h]
  · rw [readFlagByte_none h]
    cases readSeatByte matrix <;> rfl

theorem isLetterCode_false {x : Byte} (h : x = 0 ∨ 28 ≤ x.toNat) : isLetterCode x = false := by
  rcases h with rfl | h
  · rfl
  · simp only [isLetterCode, Bool.and_eq_false_iff, decide_eq_false_iff_not]
    omega

theorem readWordRequest_none {index enabled prompt sentence zero : Byte} {letters : List Byte}
    (h : 128 ≤ index.toNat ∨ 2 ≤ enabled.toNat ∨ (48 ≤ prompt.toNat ∧ prompt ≠ 255)
      ∨ (48 ≤ sentence.toNat ∧ sentence ≠ 255) ∨ 2 ≤ zero.toNat ∨ letters = [] ∨ 16 < letters.length
      ∨ ∃ c ∈ letters, c = 0 ∨ 28 ≤ c.toNat) :
    readWordRequest ([index, enabled, prompt, sentence, zero] ++ letters) = none := by
  have hnone : readWordByte index = none ∨ readFlagByte enabled = none ∨ readHandleOrNone prompt = none
      ∨ readHandleOrNone sentence = none ∨ readFlagByte zero = none
      ∨ (letters.length = 0 ∨ Config.maxLetters < letters.length ∨ letters.all isLetterCode = false) := by
    refine h.imp readWordByte_none (·.imp readFlagByte_none (·.imp (fun h => readHandleOrNone_none h.1 h.2)
      (·.imp (fun h => readHandleOrNone_none h.1 h.2) (·.imp readFlagByte_none (·.imp (fun h => by rw [h]; rfl)
      (·.imp id ?_))))))
    rintro ⟨c, hc, hbad⟩
    exact List.all_eq_false.mpr ⟨c, hc, by rw [isLetterCode_false hbad]; exact Bool.false_ne_true⟩
  change readWordRequest (index :: enabled :: prompt :: sentence :: zero :: letters) = none
  unfold readWordRequest
  dsimp only
  split
  · rename_i h1 h2 h3 h4 h5
    simp only [h1, h2, h3, h4, h5, reduceCtorEq, false_or] at hnone
    exact if_pos hnone
  · rfl

/-! ## Phrases out of range -/

theorem readItem_none {kind value : Byte} (h : badItem kind value) : readItem kind value = none := by
  have hkind : ∀ n : Byte, 7 ≤ kind.toNat → n.toNat < 7 → kind ≠ n := fun n h hn => ne_of_toNat_ne (by omega)
  rcases h with rfl | h | ⟨rfl, h⟩ | ⟨rfl, h⟩ | ⟨rfl, rfl⟩ | ⟨rfl, h⟩ | ⟨rfl | rfl, h⟩
  · rfl
  · rw [readItem, if_neg (hkind 1 h (by decide)), if_neg (hkind 2 h (by decide)), if_neg (hkind 3 h (by decide)),
      if_neg (hkind 4 h (by decide)), if_neg (hkind 5 h (by decide)), if_neg (hkind 6 h (by decide))]
  · exact if_neg (c := isLetterCode value = true) (by rw [isLetterCode_false h]; exact Bool.false_ne_true)
  · exact if_neg (c := value.toNat ≤ 63) (by omega)
  · rfl
  · exact if_neg (c := value.toNat ≤ 15) (by omega)
  · exact if_neg (c := value = 0) h
  · exact if_neg (c := value = 0) h

theorem readItems_none {items : List (Byte × Byte)} (h : ∃ i ∈ items, badItem i.1 i.2) :
    readItems (items.flatMap fun i => [i.1, i.2]) = none := by
  induction items with
  | nil =>
    obtain ⟨i, hi, -⟩ := h
    exact absurd hi List.not_mem_nil
  | cons x rest ih =>
    obtain ⟨i, hi, hbad⟩ := h
    simp only [List.flatMap_cons, List.cons_append, List.nil_append, readItems]
    rcases List.mem_cons.mp hi with rfl | hi
    · rw [readItem_none hbad]
    · rw [ih ⟨i, hi, hbad⟩]
      cases readItem x.1 x.2 <;> rfl

theorem readItems_length {items : List (Byte × Byte)} {is : List Item}
    (h : readItems (items.flatMap fun i => [i.1, i.2]) = some is) : is.length = items.length := by
  induction items generalizing is with
  | nil => cases h; rfl
  | cons x rest ih =>
    simp only [List.flatMap_cons, List.cons_append, List.nil_append, readItems] at h
    split at h
    case h_1 hrest => cases h; rw [List.length_cons, List.length_cons, ih hrest]
    case h_2 => cases h

theorem readPhraseRequest_none {handle kind : Byte} {items : List (Byte × Byte)}
    (h : 48 ≤ handle.toNat ∨ (kind ≠ 1 ∧ kind ≠ 2) ∨ items = [] ∨ 128 < items.length
      ∨ ∃ i ∈ items, badItem i.1 i.2) :
    readPhraseRequest ([handle, kind] ++ items.flatMap fun i => [i.1, i.2]) = none := by
  change readPhraseRequest (handle :: kind :: items.flatMap fun i => [i.1, i.2]) = none
  unfold readPhraseRequest
  dsimp only
  split
  case h_1 g k is hhandle hkind hitems =>
    have hlength := readItems_length hitems
    refine if_pos ?_
    rw [hlength]
    rcases h with h | h | h | h | h
    · rw [readHandleByte_none h] at hhandle; cases hhandle
    · rw [readPhraseKind_none h.1 h.2] at hkind; cases hkind
    · exact .inl (by rw [h]; rfl)
    · exact .inr h
    · rw [readItems_none h] at hitems; cases hitems
  case h_2 => rfl

/-! ## Checks -/

theorem checkContent_none {α : Type} {content : Option α} (h : content = none) (reply : α → List Byte) :
    checkContent content reply = .refused .range := by rw [h]; rfl

theorem checkContent_some {α : Type} {content : Option α} {x : α} (h : content = some x) (reply : α → List Byte) :
    checkContent content reply = .accepted (reply x) := by rw [h]; rfl

/-- A LOAD WORD whose length field announces the bytes that follow is checked by its content (R176). -/
theorem checkLoadWord_whole {n : TwoBytes} {params : List Byte} (hfixed : 5 ≤ (wordOf n).toNat)
    (hlength : (wordOf n).toNat = params.length) :
    checkLoadWord n params = checkContent (readWordRequest params) noReply := by
  rw [hlength] at hfixed
  simp only [checkLoadWord, hlength, if_neg (Nat.not_lt_of_le hfixed), Nat.lt_irrefl, if_false, List.take_length]

theorem checkWritePhrase_whole {n : TwoBytes} {params : List Byte} {count : Nat}
    (hcount : (wordOf n).toNat = 2 + 2 * count) (hlength : (wordOf n).toNat = params.length) :
    checkWritePhrase n params = checkContent (readPhraseRequest params) noReply := by
  have hwhole : ¬ (params.length < 2 ∨ (params.length - 2) % 2 = 1) := by omega
  simp only [checkWritePhrase, hlength, if_neg hwhole, Nat.lt_irrefl, if_false, List.take_length]

theorem checkLoadWord_length {n : TwoBytes} (h : (wordOf n).toNat < 5) (params : List Byte) :
    checkLoadWord n params = .refused .length := if_pos h

theorem checkWritePhrase_length {n : TwoBytes} (h : (wordOf n).toNat < 2 ∨ (wordOf n).toNat % 2 = 1)
    (params : List Byte) : checkWritePhrase n params = .refused .length := if_pos (by omega)

/-- A whole frame whose request is refused (R178). -/
theorem exec_refused {i : Instr} {s : State} {o : LessonOutcome} (h : PortIdle s)
    (hexec : exec i s = .next (lessonFrame .frameEnd i s)) (hc : checkRequest i s = .refused o) :
    exec i s = .next { s with port := framePort s o [] } := by
  rw [hexec, lessonFrame_refused h hc]

theorem pairs_length (items : List (Byte × Byte)) : (items.flatMap fun i => [i.1, i.2]).length = 2 * items.length := by
  induction items with
  | nil => rfl
  | cons x xs ih =>
    rw [List.flatMap_cons, List.length_append, ih, List.length_cons]
    exact (Nat.add_comm ..).trans (Nat.mul_succ ..).symm

theorem lessonByte_framePort (s : State) (o : LessonOutcome) (reply : List Byte) (n : Nat) :
    let t : State := { s with port := framePort s o reply }
    (reply.length ≤ n → t.lessonByte n = 255) ∧ ∀ h : n < reply.length, t.lessonByte n = reply[n] := by
  dsimp only [State.lessonByte, replyByte, framePort]
  exact ⟨fun h => Lists.getD_of_le h _, fun h => Lists.getD_of_lt h _⟩

/-- Settles O13: every reader answers none out of its range, and a check without content refuses. -/
theorem malformedRequestsChangeNothing : Obligations.MalformedRequestsChangeNothing := by
  refine ⟨fun s hidle => ?_, lessonByte_framePort⟩
  intro refused
  have range : ∀ {α : Type} {content : Option α} {reply : α → List Byte} {i : Instr},
      exec i s = .next (lessonFrame .frameEnd i s) → checkRequest i s = checkContent content reply → content = none →
      refused .range i := fun hexec hcheck hnone =>
    exec_refused hidle hexec (hcheck.trans (checkContent_none hnone _))
  refine ⟨fun x y z v mastery due seen => ?_, fun seat check tries gain echo bargeIn autoNext flush timeout limit round h =>
    range rfl rfl (readSettingsRequest_none h), fun matrix diodes codes hlength h => ?_,
    fun n index enabled prompt sentence zero letters hlength h => ?_, fun n handle kind items hlength h => ?_,
    fun n params => ?_⟩
  · exact ⟨fun h => range rfl rfl (readWordByte_none h), fun h => range rfl rfl (readProgressTarget_none h),
      fun h => range rfl rfl (readProgressRequest_none h),
      fun h => ⟨range rfl rfl (readHandleByte_none h), range rfl rfl (readHandleByte_none h)⟩,
      fun h => range rfl rfl (readSayRequest_none h), fun h => range rfl rfl (readFeedbackRequest_none h),
      fun h => ⟨range rfl rfl (readSeatByte_none h), range rfl rfl (readSeatByte_none h),
        range rfl rfl (readSeatByte_none h), range rfl rfl (readSeatByte_none h), range rfl rfl (readSeatByte_none h)⟩,
      fun h => range rfl rfl (readNextRequest_none s h), fun w h => range rfl rfl (readNextRequest_disabled x h)⟩
  · exact range rfl (if_neg (by rw [hlength]; exact Nat.lt_irrefl _)) (readKeymapRequest_none h)
  · exact range rfl (checkLoadWord_whole (by omega) (by rw [hlength, List.length_append]; rfl)) (readWordRequest_none h)
  · exact range rfl (checkWritePhrase_whole hlength (by rw [hlength, List.length_append, pairs_length]; rfl))
      (readPhraseRequest_none h)
  · exact ⟨fun h => exec_refused hidle rfl (checkLoadWord_length h params),
      fun h => exec_refused hidle rfl (checkWritePhrase_length h params)⟩

end Sys2Proof.Proofs.Refusals
end

section
/-! PROOFS. What an accepted request carries out at the end of its frame: settings, the deck, phrases, SAY. -/
namespace Sys2Proof.Proofs.Requests
open Sys2Proof Sys2Proof.Machine Sys2Proof.Safety Sys2Proof.Proofs.Refusals Sys2Proof.Proofs.Pages

/-! ## An accepted frame -/

/-- A whole frame whose request is accepted: its outcome is recorded over what it carries out (R173, R179). -/
theorem exec_carried {i : Instr} {s t u : State} {o : LessonOutcome} {reply : List Byte} (h : PortIdle s)
    (hexec : exec i s = .next (lessonFrame .frameEnd i s)) (hcheck : checkRequest i s = .accepted reply)
    (hcarry : carryOut i (shownNow s) (carriedFrom s reply) = (o, t)) (hresult : recordOutcome o t = u) :
    exec i s = .next u := by
  rw [hexec, lessonFrame_accepted h hcheck, hcarry, hresult]

/-- The same for a request whose content reads: it is checked and carried out on what was read. -/
theorem exec_read {α : Type} {content : Option α} {x : α} {reply : α → List Byte} {act : α → Carried} {i : Instr}
    {s u : State} (h : PortIdle s) (hread : content = some x)
    (hexec : exec i s = .next (lessonFrame .frameEnd i s)) (hcheck : checkRequest i s = checkContent content reply)
    (hcarry : carryOut i (shownNow s) (carriedFrom s (reply x)) = carryContent content (carriedFrom s (reply x)) act)
    (hresult : recordOutcome (act x).1 (act x).2 = u) : exec i s = .next u := by
  refine exec_carried h hexec (hcheck.trans (checkContent_some hread reply)) (hcarry.trans ?_) hresult
  rw [hread]
  rfl

/-- Lines that follow are still followed when the port alone has changed. -/
theorem linesFollow_carriedFrom {s : State} (reply : List Byte) (h : LinesFollow s) : LinesFollow (carriedFrom s reply) :=
  linesFollow_congr h rfl rfl rfl rfl rfl rfl

/-! ## Settings -/

theorem wordOf_toNat (x : TwoBytes) : (wordOf x).toNat = 256 * x.first.toNat + x.second.toNat := by
  have hsecond := x.second.isLt
  rw [wordOf, BitVec.toNat_append, ← Nat.shiftLeft_add_eq_or_of_lt hsecond, Nat.shiftLeft_eq]
  omega

theorem bytes16_wordOf (x : TwoBytes) : bytes16 (wordOf x) = [x.first, x.second] := by
  have hsecond := x.second.isLt
  have htoNat := wordOf_toNat x
  have hhigh : (wordOf x).extractLsb' 8 8 = x.first := by
    apply BitVec.eq_of_toNat_eq
    have hfirst := x.first.isLt
    rw [BitVec.extractLsb'_toNat, htoNat, Nat.shiftRight_eq_div_pow]
    omega
  have hlow : (wordOf x).extractLsb' 0 8 = x.second := by
    apply BitVec.eq_of_toNat_eq
    rw [BitVec.extractLsb'_toNat, htoNat, Nat.shiftRight_zero]
    omega
  rw [bytes16, hhigh, hlow]

/-- Settles O15: the reply is made from the values that the frame end stores, each held in its range by `pullInto`. -/
theorem setTimingStoresTheClampedValues : Obligations.SetTimingStoresTheClampedValues := by
  refine ⟨fun d m delay rate resp s h => ?_, fun x => ⟨wordOf_toNat x, bytes16_wordOf x⟩⟩
  exact ⟨pullInto 2 30 d, pullInto 3 8 m, pullInto 200 1000 (wordOf delay), pullInto 50 500 (wordOf rate),
    pullInto 100 5000 (wordOf resp), exec_carried h rfl rfl rfl rfl, pullInto_clamped 2 30 d (by decide),
    pullInto_clamped 3 8 m (by decide), pullInto_clamped 200 1000 (wordOf delay) (by decide),
    pullInto_clamped 50 500 (wordOf rate) (by decide), pullInto_clamped 100 5000 (wordOf resp) (by decide)⟩

theorem isKeyCode_iff (c : Byte) :
    isKeyCode c = true ↔ c.toNat ≤ 27 ∨ (32 ≤ c.toNat ∧ c.toNat ≤ 36) ∨ (40 ≤ c.toNat ∧ c.toNat ≤ 47) := by
  simp only [isKeyCode, Bool.or_eq_true, Bool.and_eq_true, decide_eq_true_eq, or_assoc]

theorem take_keymap (codes : Vector Byte 64) : codes.toList.take Config.keyCount = codes.toList :=
  List.take_of_length_le (Nat.le_of_eq Vector.length_toList)

theorem readKeymapRequest_code (m : Seat) (diodes : Bool) {codes : Vector Byte 64}
    (h : ∀ c ∈ codes.toList, isKeyCode c = true) :
    readKeymapRequest (seatCode m) (flagByte diodes) codes.toList = some (m, diodes, codes) := by
  unfold readKeymapRequest
  simp only [readSeatByte_code, readFlagByte_code, take_keymap]
  rw [if_pos (List.all_eq_true.mpr h), dif_pos (Vector.length_toList)]
  rfl

theorem readKeymapRequest_badCode (m : Seat) (diodes : Bool) {codes : Vector Byte 64}
    (h : ∃ c ∈ codes.toList, isKeyCode c = false) :
    readKeymapRequest (seatCode m) (flagByte diodes) codes.toList = none := by
  obtain ⟨c, hmem, hbad⟩ := h
  unfold readKeymapRequest
  simp only [readSeatByte_code, readFlagByte_code, take_keymap]
  exact if_neg fun hall => Bool.false_ne_true (hbad.symm.trans (List.all_eq_true.mp hall c hmem))

theorem checkLoadKeymap_whole (matrix diodes : Byte) (codes : Vector Byte 64) :
    checkLoadKeymap matrix diodes codes.toList = checkContent (readKeymapRequest matrix diodes codes.toList) noReply :=
  if_neg (by rw [Vector.length_toList]; exact Nat.lt_irrefl _)

/-- Settles O16: 64 codes of the table read back as themselves, and one outside it reads as nothing. -/
theorem loadKeymapSetsTheMatrix : Obligations.LoadKeymapSetsTheMatrix := by
  refine fun m diodes codes s h => ⟨fun hgood => ?_, fun ⟨c, hmem, hbad⟩ => ?_⟩
  · have hread := readKeymapRequest_code m diodes fun c hc => (isKeyCode_iff c).mpr (hgood c hc)
    exact exec_read h hread rfl (checkLoadKeymap_whole _ _ codes) rfl rfl
  · have hcode : isKeyCode c = false := Bool.eq_false_iff.mpr fun hc => by
      have := (isKeyCode_iff c).mp hc
      omega
    exact exec_refused h rfl ((checkLoadKeymap_whole _ _ codes).trans
      (checkContent_none (readKeymapRequest_badCode m diodes ⟨c, hmem, hcode⟩) _))

/-! ## The word deck -/

theorem inUse_iff (w : WordIndex) (s : State) :
    s.inUse w = true ↔
      ∃ k, (s.seat k).currentWord = some w ∨ ∃ p, (s.seat k).pendingResult = some p ∧ p.result.word = w := by
  have hseat : ∀ c : SeatContext, (decide (c.currentWord = some w)
      || decide (c.pendingResult.map (·.result.word) = some w)) = true ↔
      c.currentWord = some w ∨ ∃ p, c.pendingResult = some p ∧ p.result.word = w := fun c => by
    simp only [Bool.or_eq_true, decide_eq_true_eq, Option.map_eq_some_iff]
  rw [State.inUse, Bool.or_eq_true, hseat, hseat]
  exact ⟨fun h => h.elim (fun h => ⟨.a, h⟩) (fun h => ⟨.b, h⟩),
    fun | ⟨.a, h⟩ => .inl h | ⟨.b, h⟩ => .inr h⟩

theorem inUse_eq_false {w : WordIndex} {s : State}
    (h : ∀ k, (s.seat k).currentWord ≠ some w ∧ ∀ p, (s.seat k).pendingResult = some p → p.result.word ≠ w) :
    s.inUse w = false := by
  refine Bool.eq_false_iff.mpr fun huse => ?_
  obtain ⟨k, hcurrent | ⟨p, hp, hword⟩⟩ := (inUse_iff w s).mp huse
  · exact (h k).1 hcurrent
  · exact (h k).2 p hp hword

section LoadWord
variable (w : WordIndex) (enabled zero : Bool) (prompt sentence : Option Handle) {letters : List Byte} {n : TwoBytes}

/-- The parameters of a LOAD WORD, from what they stand for (R26). -/
def wordParams (letters : List Byte) : List Byte :=
  [byteOf w.val, flagByte enabled, indexByte prompt, indexByte sentence, flagByte zero] ++ letters

/-- What those parameters stand for. -/
def wordRequest (letters : List Byte) : WordRequest where
  index := w
  enabled := enabled
  letters := letters
  prompt := prompt
  sentence := sentence
  zeroProgress := zero

theorem readWordRequest_code (hone : 1 ≤ letters.length) (hmax : letters.length ≤ 16)
    (hcodes : ∀ c ∈ letters, 1 ≤ c.toNat ∧ c.toNat ≤ 27) :
    readWordRequest (wordParams w enabled zero prompt sentence letters)
      = some (wordRequest w enabled zero prompt sentence letters) := by
  have hletters : letters.all isLetterCode = true :=
    List.all_eq_true.mpr fun c hc => by simp only [isLetterCode, hcodes c hc, decide_true, Bool.and_self]
  have hgood : ¬ (letters.length = 0 ∨ Config.maxLetters < letters.length ∨ letters.all isLetterCode = false) := by
    rw [hletters]
    simp only [Config.maxLetters, Bool.true_eq_false, or_false]
    omega
  change readWordRequest (_ :: _ :: _ :: _ :: _ :: letters) = _
  unfold readWordRequest
  simp only [readWordByte_code, readFlagByte_code, readHandleOrNone_code, if_neg hgood]
  rfl

variable (hone : 1 ≤ letters.length) (hmax : letters.length ≤ 16) (hcodes : ∀ c ∈ letters, 1 ≤ c.toNat ∧ c.toNat ≤ 27)
  (hlength : (wordOf n).toNat = 5 + letters.length)
include hone hmax hcodes hlength

/-- The whole frame of a LOAD WORD with content in range: IN_USE, or the record is written (R25, R27). -/
theorem exec_loadWord {s : State} (h : PortIdle s) :
    exec (.loadWord .frameEnd n (wordParams w enabled zero prompt sentence letters)) s = .next
      (if s.inUse w then { s with port := framePort s .inUse [] }
       else { storeWord (wordRequest w enabled zero prompt sentence letters) s with port := framePort s .ok [] }) := by
  have hread := readWordRequest_code w enabled zero prompt sentence hone hmax hcodes
  have hparams : (wordOf n).toNat = (wordParams w enabled zero prompt sentence letters).length := by
    rw [hlength, wordParams, List.length_append]
    rfl
  have hcheck : checkRequest (.loadWord .frameEnd n (wordParams w enabled zero prompt sentence letters)) s
      = checkContent (readWordRequest (wordParams w enabled zero prompt sentence letters)) noReply :=
    checkLoadWord_whole (by omega) hparams
  have hcarry : ∀ t shown, carryOut (.loadWord .frameEnd n (wordParams w enabled zero prompt sentence letters)) shown t
      = carryContent (readWordRequest (wordParams w enabled zero prompt sentence letters)) t
        fun r => if t.inUse r.index then (.inUse, t) else (.ok, storeWord r t) := fun t shown => by
    rw [carryOut, carryLoadWord, hparams, List.take_length]
  refine exec_read h hread rfl hcheck (hcarry _ _) ?_
  change recordOutcome (if s.inUse w then _ else _ : Carried).1 (if s.inUse w then _ else _ : Carried).2 = _
  cases s.inUse w <;> rfl

end LoadWord

/-- Settles O17: the parameters read back as given, and the word is not in use. -/
theorem loadWordWritesTheRecord : Obligations.LoadWordWritesTheRecord := by
  intro w enabled zero prompt sentence letters n s h hone hmax hcodes hlength hfree
  have hexec := exec_loadWord w enabled zero prompt sentence hone hmax hcodes hlength h
  rw [inUse_eq_false hfree, if_neg Bool.false_ne_true] at hexec
  exact hexec

theorem pullInto_byte (x : Word16) : ((pullInto 0 255 x).setWidth 8).toNat = min 255 x.toNat := by
  have hclamped := pullInto_clamped 0 255 x (by decide)
  unfold Clamped at hclamped
  have h0 : (0 : Word16).toNat = 0 := rfl
  have h255 : (255 : Word16).toNat = 255 := rfl
  rw [BitVec.toNat_setWidth, hclamped, h0, h255]
  omega

/-- The whole frame of a SET PROGRESS with content in range: IN_USE, or one seat's record is written (R30, R31). -/
theorem exec_setProgress (w : WordIndex) (k : Seat) (mastery due seen : TwoBytes) (streak : Byte) (v : Verdict)
    {s : State} (h : PortIdle s) :
    exec (.setProgress .frameEnd (byteOf w.val) (seatCode k) mastery due streak seen (verdictCode v)) s = .next
      (if s.inUse w then { s with port := framePort s .inUse [] }
       else
        { s.setProgress w k
            { mastery := (pullInto 0 255 (wordOf mastery)).setWidth 8, due := wordOf due, streak := streak,
              seen := wordOf seen, last := v } with
          port := framePort s .ok [] }) := by
  have hread : readProgressRequest (byteOf w.val) (seatCode k) mastery due streak seen (verdictCode v) = some (w, k,
      { mastery := (pullInto 0 255 (wordOf mastery)).setWidth 8, due := wordOf due, streak := streak,
        seen := wordOf seen, last := v }) := by
    simp only [readProgressRequest, readWordByte_code, readSeatByte_code, readVerdict_code]
  refine exec_read h hread rfl rfl rfl ?_
  change recordOutcome (if s.inUse w then _ else _ : Carried).1 (if s.inUse w then _ else _ : Carried).2 = _
  cases s.inUse w <;> rfl

/-- Settles O18: the word is in use by a seat, so both requests stop at that check. -/
theorem wordInUseIsRefused : Obligations.WordInUseIsRefused := by
  intro w k j s h huse
  have huse : s.inUse w = true := (inUse_iff w s).mpr ⟨k, huse⟩
  constructor
  · intro enabled zero prompt sentence letters n hone hmax hcodes hlength
    have hexec := exec_loadWord w enabled zero prompt sentence hone hmax hcodes hlength h
    rw [if_pos huse] at hexec
    exact hexec
  · intro mastery due seen streak v
    rw [exec_setProgress w j mastery due seen streak v h, if_pos huse]

/-- Settles O20: the word is not in use, and the mastery is the one held at 255. -/
theorem setProgressWritesOneRecord : Obligations.SetProgressWritesOneRecord := by
  intro w k mastery due seen streak v s h hfree
  refine ⟨(pullInto 0 255 (wordOf mastery)).setWidth 8, pullInto_byte _, ?_⟩
  rw [exec_setProgress w k mastery due seen streak v h, inUse_eq_false hfree, if_neg Bool.false_ne_true]
  rfl

/-- The places of a list that is filled up to a length. -/
theorem map_range_getD {α : Type} (l : List α) (d : α) {n : Nat} (h : l.length ≤ n) :
    ((List.range n).map fun i => l.getD i d) = l ++ List.replicate (n - l.length) d := by
  refine List.ext_getElem (by simp; omega) fun i h1 h2 => ?_
  rw [List.getElem_map, List.getElem_range]
  by_cases hi : i < l.length
  · rw [Lists.getD_of_lt hi _, List.getElem_append_left hi]
  · rw [Lists.getD_of_le (Nat.le_of_not_lt hi) _, List.getElem_append_right (Nat.le_of_not_lt hi),
      List.getElem_replicate]

/-- Settles O19: the three replies are made from the records, and the places behind a list are filled up. -/
theorem recordReadsShowWhatStands : Obligations.RecordReadsShowWhatStands := by
  refine ⟨fun w k s h => ⟨fun hletters => ?_, ?_⟩, fun g s h hchain => ?_⟩
  · have hcheck : checkRequest (.readWord .frameEnd (byteOf w.val)) s = .accepted (wordReply (s.word w)) :=
      checkContent_some (readWordByte_code w) _
    rw [wordReply, map_range_getD (n := Config.maxLetters) _ _ hletters, ← List.append_assoc] at hcheck
    exact exec_carried h rfl hcheck rfl rfl
  · have hread : readProgressTarget (byteOf w.val) (seatCode k) = some (w, k) := by
      simp only [readProgressTarget, readWordByte_code, readSeatByte_code]
    exact exec_carried h rfl ((rfl : _ = checkContent _ _).trans (checkContent_some hread _)) rfl rfl
  · have hcheck : checkRequest (.readPhraseInfo .frameEnd (byteOf g.val)) s
        = .accepted (phraseReply (s.handle g) s.phrases.free.length) := checkContent_some (readHandleByte_code g) _
    rw [phraseReply, map_range_getD _ _ (by rw [List.length_map]; exact hchain), List.length_map,
      ← List.append_assoc] at hcheck
    exact exec_carried h rfl hcheck rfl rfl

theorem clampIntervals_eq (a b c d : Byte) :
    clampIntervals a b c d = #v[if a = 0 then 1 else a, if b = 0 then 1 else b, if c = 0 then 1 else c,
      if d = 0 then 1 else d] := by
  simp only [clampIntervals, pullInto_interval]

/-- Settles O21: what is stored is what the reply shows; 0 is the one byte out of an interval's range. -/
theorem tableSettingsAreStored : Obligations.TableSettingsAreStored := by
  refine ⟨fun a b c d s h => ?_, fun i g x s h => ⟨?_, ?_⟩⟩
  · have hcheck : checkRequest (.setIntervals .frameEnd a b c d) s = .accepted (clampIntervals a b c d).toList := rfl
    have hcarry : ∀ reply, carryOut (.setIntervals .frameEnd a b c d) (shownNow s) (carriedFrom s reply)
      = (.ok, { carriedFrom s reply with deck := { s.deck with intervals := clampIntervals a b c d } }) := fun _ => rfl
    rw [clampIntervals_eq] at hcheck hcarry
    exact exec_carried h rfl hcheck (hcarry _) rfl
  · exact exec_read h (readFeedbackRequest_code i g) rfl rfl rfl rfl
  · exact exec_carried h rfl rfl rfl rfl

/-! ## Seats -/

/-- What a SET SEAT's bytes stand for, each number held in its range (R42). -/
def settingsRead (check : CheckMode) (tries gain : Byte) (echo bargeIn autoNext flush : Bool) (timeout limit : Byte) :
    Settings where
  check := check
  triesAllowed := pullInto 1 3 tries
  gain := pullInto 1 8 gain
  echo := echo
  bargeIn := bargeIn
  autoNext := autoNext
  flush := flush
  idleTimeout := pullIdleTimeout timeout
  nudgeLimit := pullInto 1 7 limit

theorem readSettingsRequest_code (k : Seat) (check : CheckMode) (tries gain timeout limit : Byte)
    (echo bargeIn autoNext flush : Bool) :
    readSettingsRequest (seatCode k) (checkCode check) tries gain (flagByte echo) (flagByte bargeIn)
      (flagByte autoNext) (flagByte flush) timeout limit =
      some (k, settingsRead check tries gain echo bargeIn autoNext flush timeout limit) := by
  simp only [readSettingsRequest, readSeatByte_code, readCheckMode_code, readFlagByte_code, settingsRead]

/-- Settles O27: the settings are read with each value held in its range; only the seat's state decides about them. -/
theorem setSeatWritesTheSettings : Obligations.SetSeatWritesTheSettings := by
  intro k check tries gain timeout limit echo bargeIn autoNext flush round s h
  have hread := readSettingsRequest_code k check tries gain timeout limit echo bargeIn autoNext flush
  refine ⟨settingsRead check tries gain echo bargeIn autoNext flush timeout limit, rfl,
    pullInto_clamped 1 3 tries (by decide), pullInto_clamped 1 8 gain (by decide), rfl, rfl, rfl, rfl,
    fun h0 => by rw [h0]; rfl, pullIdleTimeout_clamped, pullInto_clamped 1 7 limit (by decide), ?_⟩
  intro reply c
  have hreply : settingsBlock (settingsRead check tries gain echo bargeIn autoNext flush timeout limit) (wordOf round)
      = reply := by rw [settingsBlock, bytes16_wordOf]; rfl
  have hcarry := fun (t : State) => show
      carryOut c (shownNow s) t = carryContent _ t _ from rfl
  rw [← hreply]
  constructor
  · rintro (hs | hs)
    all_goals
      refine exec_read h hread rfl rfl (hcarry _) ?_
      rw [show (carriedFrom s _).seat k = s.seat k from rfl, hs]
      rfl
  · intro hoff hidle
    refine exec_read h hread rfl rfl (hcarry _) ?_
    rw [show (carriedFrom s _).seat k = s.seat k from rfl]
    split
    · exact absurd ‹_› hoff
    · exact absurd ‹_› hidle
    all_goals rfl

end Sys2Proof.Proofs.Requests
end

section
/-! PROOFS. WRITE PHRASE, FREE PHRASE (R101, R102, R105, R106). -/
namespace Sys2Proof.Proofs.Phrases
open Sys2Proof Sys2Proof.Machine Sys2Proof.Safety Sys2Proof.Proofs.Refusals Sys2Proof.Proofs.Pages
open Sys2Proof.Proofs.Requests

/-! ## The items on their pages -/

theorem storeItems_of_not_mem {chain : List Page} {p : Page} (hp : p ∉ chain) (items : List Item)
    (pages : Vector (List Item) Config.pageCount) : (storeItems chain items pages)[p.val] = pages[p.val] := by
  induction chain generalizing items pages with
  | nil => rfl
  | cons q rest ih =>
    rw [List.mem_cons, not_or] at hp
    rw [storeItems, ih hp.2, Vector.getElem_set_ne]
    exact fun e => hp.1 (Fin.ext e.symm)

/-- Page j of a chain holds the items from 16 j on (R101). -/
theorem storeItems_getElem {chain : List Page} (hchain : chain.Nodup) (items : List Item)
    (pages : Vector (List Item) Config.pageCount) {j : Nat} (hj : j < chain.length) :
    (storeItems chain items pages)[chain[j].val] = (items.drop (16 * j)).take 16 := by
  induction chain generalizing items pages j with
  | nil => exact absurd hj (Nat.not_lt_zero _)
  | cons q rest ih =>
    obtain ⟨hq, hrest⟩ := List.nodup_cons.mp hchain
    cases j with
    | zero =>
      simp only [storeItems, List.getElem_cons_zero]
      rw [storeItems_of_not_mem hq, Vector.getElem_set_self]
      rfl
    | succ j =>
      simp only [storeItems, List.getElem_cons_succ]
      have hpage : Config.pageSize + 16 * j = 16 * (j + 1) := by rw [Config.pageSize]; omega
      rw [ih hrest _ _ (Nat.lt_of_succ_lt_succ hj), List.drop_drop, hpage]

/-- An item is found again at its place of its page (R102). -/
theorem item_of_page (items : List Item) (k : Nat) :
    (((items.drop (16 * (k / 16))).take 16).drop (k % 16)).head? = items[k]? := by
  have hmod := Nat.mod_lt k (by decide : 16 > 0)
  have hk : 16 * (k / 16) + k % 16 = k := Nat.div_add_mod k 16
  rw [List.head?_drop, List.getElem?_take, if_pos hmod, List.getElem?_drop, hk]

/-- What was written reads back in its order (R102). -/
theorem phraseItem_storePhrase {s : State} (h : PagesAccounted s) (g : Handle) (kind : HandleState) (items : List Item)
    (hroom : pagesNeeded items.length ≤ s.phrases.free.length) {k : Nat} (hk : k < items.length) :
    phraseItem g (k + 1) (storePhrase g kind items s) = items[k]? := by
  have hchain : ((storePhrase g kind items s).handle g).chain = s.phrases.free.take (pagesNeeded items.length) := by
    rw [handle_of_set (s := s) (g := g) rfl, if_pos rfl]
  have hlength : k / Config.pageSize < (s.phrases.free.take (pagesNeeded items.length)).length := by
    rw [List.length_take, Nat.min_eq_left hroom, pagesNeeded, Config.pageSize]
    omega
  have hnodup : (s.phrases.free.take (pagesNeeded items.length)).Nodup :=
    (h.rising.sublist (List.take_sublist _ _)).imp fun hlt e => Nat.ne_of_lt hlt (congrArg Fin.val e)
  have hpage := storeItems_getElem hnodup items s.phrases.pages hlength
  rw [phraseItem, hchain, Nat.add_sub_cancel, List.drop_eq_getElem_cons hlength]
  exact (congrArg (fun page => (List.drop (k % Config.pageSize) page).head?) hpage).trans (item_of_page items k)

/-! ## WRITE PHRASE -/

theorem itemBytes_length (items : List Item) : (items.flatMap itemBytes).length = 2 * items.length := by
  induction items with
  | nil => rfl
  | cons i rest ih =>
    have hone : (itemBytes i).length = 2 := by cases i <;> rfl
    rw [List.flatMap_cons, List.length_append, List.length_cons, ih, hone]
    omega

/-- The kind a WRITE PHRASE asks for (R101). -/
def kindOf (oneShot : Bool) : HandleState := if oneShot then .oneShot else .kept

section Write
variable (g : Handle) (oneShot : Bool) {items : List Item} {n : TwoBytes}

/-- The parameters of a WRITE PHRASE, from what they stand for (R101). -/
def phraseParams (items : List Item) : List Byte :=
  [byteOf g.val, if oneShot then 2 else 1] ++ items.flatMap itemBytes

theorem readPhraseRequest_code (hone : 1 ≤ items.length) (hmax : items.length ≤ 128)
    (hitems : ∀ i ∈ items, itemOk i = true) :
    readPhraseRequest (phraseParams g oneShot items) = some (g, kindOf oneShot, items) := by
  have hkind : readPhraseKind (if oneShot then 2 else 1) = some (kindOf oneShot) := by cases oneShot <;> rfl
  have hgood : ¬ (items.length = 0 ∨ Config.maxItems < items.length) := by
    simp only [Config.maxItems]
    omega
  change readPhraseRequest (_ :: _ :: items.flatMap itemBytes) = _
  unfold readPhraseRequest
  simp only [readHandleByte_code, hkind, readItems_code items hitems, if_neg hgood]

/-- The whole frame of a WRITE PHRASE with content in range (R101). -/
theorem exec_writePhrase {s : State} (h : PortIdle s) (hone : 1 ≤ items.length) (hmax : items.length ≤ 128)
    (hitems : ∀ i ∈ items, itemOk i = true) (hlength : (wordOf n).toNat = 2 + 2 * items.length) :
    exec (.writePhrase .frameEnd n (phraseParams g oneShot items)) s = .next
      (if (s.handle g).state ≠ .empty then { s with port := framePort s .inUse [] }
       else if s.phrases.free.length < pagesNeeded items.length then { s with port := framePort s .noSpace [] }
       else { storePhrase g (kindOf oneShot) items s with port := framePort s .ok [] }) := by
  have hread := readPhraseRequest_code g oneShot hone hmax hitems
  have hparams : (wordOf n).toNat = (phraseParams g oneShot items).length := by
    rw [hlength, phraseParams, List.length_append, itemBytes_length]
    rfl
  have hcheck : checkRequest (.writePhrase .frameEnd n (phraseParams g oneShot items)) s
      = checkContent (readPhraseRequest (phraseParams g oneShot items)) noReply :=
    checkWritePhrase_whole hlength hparams
  have hcarry : ∀ t shown, carryOut (.writePhrase .frameEnd n (phraseParams g oneShot items)) shown t
      = carryContent (readPhraseRequest (phraseParams g oneShot items)) t fun r =>
        if (t.handle r.1).state ≠ .empty then (.inUse, t)
        else if t.phrases.free.length < pagesNeeded r.2.2.length then (.noSpace, t)
        else (.ok, storePhrase r.1 r.2.1 r.2.2 t) := fun t shown => by
    rw [carryOut, carryWritePhrase, hparams, List.take_length]
  refine exec_read h hread rfl hcheck (hcarry _ _) ?_
  dsimp only
  change recordOutcome (if (s.handle g).state ≠ .empty then _
      else if s.phrases.free.length < pagesNeeded items.length then _ else _ : Carried).1
    (if (s.handle g).state ≠ .empty then _
      else if s.phrases.free.length < pagesNeeded items.length then _ else _ : Carried).2 = _
  split
  · rfl
  · split <;> rfl

end Write

/-- Settles O24: what is stored takes the front of the free set, and its items read back from their pages. -/
theorem writePhraseStoresTheItems : Obligations.WritePhraseStoresTheItems := by
  intro g oneShot items n s h hpages hone hmax hitems hlength
  have hexec := exec_writePhrase g oneShot h hone hmax hitems hlength
  refine ⟨fun hempty hroom => ?_, fun hused => ?_, fun hempty hfull => ?_⟩
  · change pagesNeeded items.length ≤ _ at hroom
    rw [if_neg (Classical.not_not.mpr hempty), if_neg (Nat.not_lt_of_le hroom)] at hexec
    refine ⟨_, hexec, rfl, rfl, by cases oneShot <;> rfl, fun k hk => ?_, fun p hp => ?_⟩
    · exact phraseItem_storePhrase hpages g (kindOf oneShot) items hroom hk
    · exact storeItems_of_not_mem hp items s.phrases.pages
  · rw [if_pos hused] at hexec
    exact hexec
  · change _ < pagesNeeded items.length at hfull
    rw [if_neg (Classical.not_not.mpr hempty), if_pos hfull] at hexec
    exact hexec

/-! ## FREE PHRASE -/

theorem freePhrase_of_unused {g : Handle} {s : State} (h : (s.handle g).references = 0) :
    freePhrase g s = { s with
      phrases :=
        { s.phrases with
          free := freePages (s.handle g).chain s.phrases.free, handles := s.phrases.handles.set g.val .reset } } := by
  simp only [freePhrase, returnPages, State.handle_setHandle_self, h, and_self, if_true]
  simp only [State.setHandle, Vector.set_set]

theorem freePhrase_of_used {g : Handle} {s : State} (h : (s.handle g).references ≠ 0) :
    freePhrase g s = s.setHandle g { s.handle g with state := .releasing } := by
  simp only [freePhrase, returnPages, State.handle_setHandle_self, h, and_false, if_false]

/-- The whole frame of a FREE PHRASE, by the state of its handle (R105). -/
theorem exec_freePhrase (g : Handle) {s : State} (h : PortIdle s) :
    (((s.handle g).state = .kept ∨ (s.handle g).state = .oneShot) →
      exec (.freePhrase .frameEnd (byteOf g.val)) s = .next (recordOutcome .ok (freePhrase g (carriedFrom s []))))
    ∧ (((s.handle g).state = .empty ∨ (s.handle g).state = .releasing) →
      exec (.freePhrase .frameEnd (byteOf g.val)) s = .next { s with port := framePort s .state [] }) := by
  have hread := readHandleByte_code g
  have hhandle : (carriedFrom s []).handle g = s.handle g := rfl
  constructor
  · rintro (hs | hs)
    all_goals
      refine exec_read (reply := noReply) h hread rfl rfl rfl ?_
      simp only [noReply, hhandle, hs]
  · rintro (hs | hs)
    all_goals
      refine exec_read (reply := noReply) h hread rfl rfl rfl ?_
      simp only [noReply, hhandle, hs]
      rfl

/-- Settles O25: the references decide whether the pages go back at once. -/
theorem freePhraseReturnsThePages : Obligations.FreePhraseReturnsThePages := by
  intro g s h
  obtain ⟨hfreed, hrefused⟩ := exec_freePhrase g h
  refine ⟨fun hs hrefs => ?_, fun hs hrefs => ?_, hrefused⟩
  · have hexec := hfreed hs
    rw [freePhrase_of_unused (s := carriedFrom s []) hrefs] at hexec
    exact ⟨_, hexec, rfl, rfl, count_freePages _ _, rfl⟩
  · have hexec := hfreed hs
    rw [freePhrase_of_used (s := carriedFrom s []) hrefs] at hexec
    exact hexec

end Sys2Proof.Proofs.Phrases
end

section
/-! PROOFS. The idle timer of a seat at the end of an event (R64), and one image write (R164, R165), in the terms of the
statements. -/
namespace Sys2Proof.Proofs.Seats
open Sys2Proof Sys2Proof.Machine Sys2Proof.Safety

/-! ## The idle timer -/

theorem seat_of_seats {s x : State} {k : Seat} {c : SeatContext} (h : x.seats = s.seats.set k c) : x.seat k = c := by
  rw [State.seat, h, Pair.get_set_self]

/-- The seat has an entry of its own in its lanes. -/
theorem idleTimerAfter_of_entry {k : Seat} {x : State} {e : SpeechEntry}
    (he : e ∈ x.lane (.prompt k) ++ x.lane (.echo k)) (hseat : e.seat = some k) : idleTimerAfter k x = none := by
  have hruns : idleTimerRuns k x = false := Bool.eq_false_iff.mpr fun h => ((idleTimerRuns_iff k x).mp h).2.2 e he hseat
  rw [idleTimerAfter, hruns]
  rfl

/-- The seat is in a state without an idle timer. -/
theorem idleTimerAfter_of_state {k : Seat} {x : State} (hp : (x.seat k).state ≠ .present)
    (he : (x.seat k).state ≠ .entry) : idleTimerAfter k x = none := by
  have hruns : idleTimerRuns k x = false :=
    Bool.eq_false_iff.mpr fun h => ((idleTimerRuns_iff k x).mp h).1.elim hp he
  rw [idleTimerAfter, hruns]
  rfl

/-- The timer of a seat in a word that has just begun to be silent. -/
theorem idleTimerAfter_started {k : Seat} {x : State} (hstate : (x.seat k).state = .present ∨ (x.seat k).state = .entry)
    (hlanes : ∀ e ∈ x.lane (.prompt k) ++ x.lane (.echo k), e.seat ≠ some k) (hidle : (x.seat k).idleTimer = none) :
    idleTimerAfter k x = startedIdle (x.seat k) := by
  rw [idleTimerAfter, hidle, startedIdle]
  by_cases hzero : (x.seat k).settings.idleTimeout = 0
  · have hruns : idleTimerRuns k x = false :=
      Bool.eq_false_iff.mpr fun h => ((idleTimerRuns_iff k x).mp h).2.1 hzero
    rw [hruns, if_pos hzero]
    rfl
  · rw [(idleTimerRuns_iff k x).mpr ⟨hstate, hzero, hlanes⟩, if_neg hzero]
    rfl

/-- A seat whose lines follow has no timer outside PRESENT and ENTRY. -/
theorem idleTimer_of_state {k : Seat} {s : State} (h : LinesFollow s) (hp : (s.seat k).state ≠ .present)
    (he : (s.seat k).state ≠ .entry) : (s.seat k).idleTimer = none := by
  refine Classical.byContradiction fun htimer => ?_
  exact ((h.idle k).mp htimer).1.elim hp he

/-- A seat whose lines follow has no timer while it has an entry of its own. -/
theorem idleTimer_of_entry {k : Seat} {s : State} {e : SpeechEntry} (h : LinesFollow s)
    (he : e ∈ s.lane (.prompt k) ++ s.lane (.echo k)) (hseat : e.seat = some k) : (s.seat k).idleTimer = none := by
  refine Classical.byContradiction fun htimer => ?_
  exact ((h.idle k).mp htimer).2.2 e he hseat

/-- `settle` after the seats and the seats' lanes have stayed: the lines alone. -/
theorem settle_of_seats {s x : State} (h : LinesFollow s) (hs : x.seats = s.seats)
    (hl : ∀ k, x.lane (.prompt k) = s.lane (.prompt k) ∧ x.lane (.echo k) = s.lane (.echo k)) :
    settle x = { x with pins := pinLevels x } := by
  refine settle_eq_pins fun k => ?_
  have := ((linesFollow_iff s).mp h).2 k
  obtain ⟨hp, he⟩ := hl k
  simp only [State.seat, idleTimerRuns, seatEntries, hs, hp, he] at this ⊢
  exact this

/-! ## Image writes -/

theorem writeImage_eq (k : Seat) (v : Verdict) (s : State) :
    writeImage k v s =
      { s with
        mirror :=
          { s.mirror with
            live :=
              liveWith k (shownState (s.seat k).state) (s.target k).length v (s.seat k).tries (s.seat k).line s } } :=
  rfl

theorem writeImageKeepingVerdict_eq (k : Seat) (s : State) :
    writeImageKeepingVerdict k s =
      { s with
        mirror :=
          { s.mirror with
            live :=
              liveWith k (shownState (s.seat k).state) (s.target k).length (s.mirror.live.get k).verdict
                (s.seat k).tries (s.seat k).line s } } :=
  rfl

/-- The written image depends on the live images alone. -/
theorem liveWith_congr {s t : State} (h : t.mirror.live = s.mirror.live) (k : Seat) (state : ShownState) (length : Nat)
    (v : Verdict) (tries : Byte) (line : List Symbol) :
    liveWith k state length v tries line t = liveWith k state length v tries line s := by
  simp only [liveWith, h]

/-- A write of another state changes the state and the generation. -/
theorem liveWith_state {k : Seat} {s : State} (h : Shows k s) {state : ShownState}
    (hne : state ≠ shownState (s.seat k).state) :
    liveWith k state (s.target k).length (s.mirror.live.get k).verdict (s.seat k).tries (s.seat k).line s =
      s.mirror.live.set k
        { s.mirror.live.get k with state := state, generation := (s.mirror.live.get k).generation + 1 } := by
  obtain ⟨h1, h2, h3, h4⟩ := h
  simp only [liveWith]
  rw [if_neg fun e => hne (by rw [← h1, ← e]), ← h2, ← h3, ← h4]

end Sys2Proof.Proofs.Seats
end

section
/-! PROOFS. SAY and START SEAT (R118, R120, R121, R43). -/
namespace Sys2Proof.Proofs.Say
open Sys2Proof Sys2Proof.Machine Sys2Proof.Safety Sys2Proof.Proofs.Refusals Sys2Proof.Proofs.Requests
open Sys2Proof.Proofs.Seats

/-! ## References -/

/-- A handle's record with one more reference (R103). -/
def referenceTaken (r : HandleRecord) : HandleRecord :=
  { r with references := r.references + 1, state := if r.state = .oneShot then .releasing else .kept }

theorem takeReference_of_usable {g : Handle} {s : State}
    (h : (s.handle g).state = .kept ∨ (s.handle g).state = .oneShot) :
    takeReference g s = some (s.setHandle g (referenceTaken (s.handle g))) := by
  simp only [takeReference, referenceTaken]
  rcases h with h | h
  · rw [h, ← h]
    simp only [h, reduceCtorEq, if_false]
  · rw [h]
    rfl

theorem takeReference_of_unusable {g : Handle} {s : State}
    (h : (s.handle g).state = .empty ∨ (s.handle g).state = .releasing) : takeReference g s = none := by
  simp only [takeReference]
  rcases h with h | h <;> rw [h]

/-! ## SAY -/

theorem readSayRequest_system (g : Handle) (channel : Channel) :
    readSayRequest (byteOf g.val) 0 (channelCode channel) = some (g, .system channel) := by
  simp only [readSayRequest, readHandleByte_code, readSayTarget_system]

theorem readSayRequest_seat (g : Handle) (k : Seat) (channel : Byte) :
    readSayRequest (byteOf g.val) (seatCode k + 1) channel = some (g, .seat k) := by
  simp only [readSayRequest, readHandleByte_code, readSayTarget_seat]

theorem exec_saySystem (g : Handle) (channel : Channel) (tag : Byte) {s u : State} (h : PortIdle s)
    (hresult : recordOutcome (saySystem g channel tag (carriedFrom s [])).1
      (saySystem g channel tag (carriedFrom s [])).2 = u) :
    exec (.say .frameEnd (byteOf g.val) 0 (channelCode channel) tag) s = .next u :=
  exec_read h (readSayRequest_system g channel) rfl rfl rfl hresult

theorem exec_saySeat (g : Handle) (k : Seat) (channel tag : Byte) {s u : State} (h : PortIdle s)
    (hresult : recordOutcome (saySeat g k tag (carriedFrom s [])).1 (saySeat g k tag (carriedFrom s [])).2 = u) :
    exec (.say .frameEnd (byteOf g.val) (seatCode k + 1) channel tag) s = .next u :=
  exec_read h (readSayRequest_seat g k channel) rfl rfl rfl hresult

/-- A queued head of the system lane raises SRQ while nothing is in flight (R132). -/
theorem srqLevel_of_system {s : State} {e : SpeechEntry} (hidle : s.link.inFlight = none)
    (hlane : s.lane .system = [e]) (he : e.state = .queued) : srqLevel s = true := by
  rw [srqLevel_iff]
  exact .inr ⟨hidle, .system, e, by rw [hlane]; rfl, he⟩

theorem say_system (g : Handle) (channel : Channel) (tag : Byte) {s : State} (h : PortIdle s) (hl : LinesFollow s)
    (hg : (s.handle g).state = .kept ∨ (s.handle g).state = .oneShot) (hroom : (s.lane .system).length < 4) :
    ∃ t, exec (.say .frameEnd (byteOf g.val) 0 (channelCode channel) tag) s = .next t
      ∧ t = { s with
          phrases := { s.phrases with handles := s.phrases.handles.set g.val (referenceTaken (s.handle g)) },
          lanes :=
            { s.lanes with
              system := s.lanes.system ++ [freshEntry s (.phrase g) .lessonSay none (some channel) tag] },
          nextEntryId := s.nextEntryId + 1, port := framePort s .ok [], pins := t.pins }
      ∧ (s.link.inFlight = none → s.lane .system = [] → t.pins.srq = true) := by
  have htake := takeReference_of_usable (s := carriedFrom s []) hg
  have hsay : saySystem g channel tag (carriedFrom s []) = (.ok, settle (joinLane .system (.phrase g) .lessonSay none
      (some channel) tag ((carriedFrom s []).setHandle g (referenceTaken (s.handle g))))) := by
    simp only [saySystem, htake]
    exact if_pos hroom
  have hsettle := settle_of_seats (x := joinLane .system (.phrase g) .lessonSay none (some channel) tag
    ((carriedFrom s []).setHandle g (referenceTaken (s.handle g)))) hl rfl fun k => ⟨rfl, rfl⟩
  refine ⟨_, exec_saySystem g channel tag h (by rw [hsay, hsettle]), rfl, fun hidle hlane => ?_⟩
  refine srqLevel_of_system (e := freshEntry s (.phrase g) .lessonSay none (some channel) tag) hidle ?_ rfl
  change s.lanes.system ++ _ = _
  rw [show s.lanes.system = [] from hlane]
  rfl

theorem outOfOff_iff (c : SeatContext) : c.outOfOff = true ↔ c.state ≠ .off := decide_eq_true_iff

theorem say_seat (g : Handle) (k : Seat) (channel tag : Byte) {s : State} (h : PortIdle s) (hl : LinesFollow s)
    (hoff : (s.seat k).state ≠ .off) (hg : (s.handle g).state = .kept ∨ (s.handle g).state = .oneShot)
    (hroom : (s.lane (.prompt k)).length < 2) :
    ∃ t, exec (.say .frameEnd (byteOf g.val) (seatCode k + 1) channel tag) s = .next t
      ∧ t = { s with
          seats := s.seats.set k { s.seat k with idleTimer := none },
          phrases := { s.phrases with handles := s.phrases.handles.set g.val (referenceTaken (s.handle g)) },
          lanes :=
            { s.lanes with
              prompt :=
                s.lanes.prompt.set k
                  (s.lane (.prompt k) ++ [freshEntry s (.phrase g) .lessonSay (some k) none tag]) },
          nextEntryId := s.nextEntryId + 1, port := framePort s .ok [], pins := t.pins } := by
  have htake := takeReference_of_usable (s := carriedFrom s []) hg
  have hsay : saySeat g k tag (carriedFrom s []) = (.ok, settle (joinLane (.prompt k) (.phrase g) .lessonSay (some k)
      none tag ((carriedFrom s []).setHandle g (referenceTaken (s.handle g))))) := by
    simp only [saySeat, htake]
    exact (if_pos ((outOfOff_iff _).mpr hoff)).trans (if_pos hroom)
  have hlane : ∀ j, (joinLane (.prompt k) (.phrase g) .lessonSay (some k) none tag
      ((carriedFrom s []).setHandle g (referenceTaken (s.handle g)))).lane j
      = if j = .prompt k then s.lane (.prompt k) ++ [freshEntry s (.phrase g) .lessonSay (some k) none tag]
        else s.lane j := fun j => State.lane_setLane (carriedFrom s []) (.prompt k) j _
  have hsettle := settle_one (k := k) (c := s.seat k) (x := joinLane (.prompt k) (.phrase g) .lessonSay (some k) none tag
    ((carriedFrom s []).setHandle g (referenceTaken (s.handle g)))) hl (Pair.set_get ..).symm
    (by rw [hlane, if_neg (by simp)]) (by rw [hlane, if_neg (by simp)])
  have hidle := idleTimerAfter_of_entry (k := k) (x := joinLane (.prompt k) (.phrase g) .lessonSay (some k) none tag
    ((carriedFrom s []).setHandle g (referenceTaken (s.handle g))))
    (e := freshEntry s (.phrase g) .lessonSay (some k) none tag)
    (by rw [hlane, if_pos rfl]; simp) rfl
  rw [hidle] at hsettle
  exact ⟨_, exec_saySeat g k channel tag h (by rw [hsay, hsettle]), rfl⟩

/-- Settles O26: the handle's state and the room in the lane decide, and a seat's own entry stops its idle timer. -/
theorem sayJoinsItsLane : Obligations.SayJoinsItsLane := by
  refine ⟨fun g channel tag s h hl => ⟨fun hg hroom => say_system g channel tag h hl hg hroom, fun hg => ?_,
    fun hg hfull => ?_⟩, fun g k channel tag s h hl => ⟨fun hoff hg hroom => say_seat g k channel tag h hl hoff hg hroom,
    fun hbad => ?_, fun hoff hg hfull => ?_⟩⟩
  · refine exec_saySystem g channel tag h ?_
    rw [saySystem, takeReference_of_unusable (s := carriedFrom s []) hg]
    rfl
  · refine exec_saySystem g channel tag h ?_
    rw [saySystem, takeReference_of_usable (s := carriedFrom s []) hg]
    have hnot : ¬ ((carriedFrom s []).lane .system).length < Config.systemLaneSize := Nat.not_lt_of_le hfull
    dsimp only
    rw [if_neg hnot]
    rfl
  · refine exec_saySeat g k channel tag h ?_
    have hrefused : saySeat g k tag (carriedFrom s []) = (.state, carriedFrom s []) := by
      rw [saySeat]
      split
      case isTrue hout =>
        rw [takeReference_of_unusable (s := carriedFrom s [])
          (hbad.resolve_left ((outOfOff_iff (s.seat k)).mp hout))]
      case isFalse => rfl
    rw [hrefused]
    rfl
  · refine exec_saySeat g k channel tag h ?_
    rw [saySeat, if_pos ((outOfOff_iff ((carriedFrom s []).seat k)).mpr hoff),
      takeReference_of_usable (s := carriedFrom s []) hg]
    have hnot : ¬ ((carriedFrom s []).lane (.prompt k)).length < Config.promptLaneSize - Config.drillReserve :=
      Nat.not_lt_of_le hfull
    dsimp only
    rw [if_neg hnot]
    rfl

/-! ## START SEAT -/

/-- A request that names a seat by its code is carried out for that seat. -/
theorem carryContent_seat (k : Seat) (s : State) (act : Seat → Carried) :
    carryContent (readSeatByte (seatCode k)) s act = act k := by
  rw [readSeatByte_code]
  rfl

theorem startSeat_eq {k : Seat} {s : State} (hi : ImagesFollow s) (hoff : (s.seat k).state = .off) :
    startSeat k s =
      { s.setSeat k { s.seat k with state := .idle } with
        mirror :=
          { s.mirror with
            live :=
              s.mirror.live.set k
                { s.mirror.live.get k with
                  state := .idle, generation := (s.mirror.live.get k).generation + 1 } } } := by
  have hlive := liveWith_state (hi k) (state := .idle) (by rw [hoff]; nofun)
  rw [startSeat, writeImageKeepingVerdict_eq, State.seat_mapSeat_self, ← hlive, State.target, State.target,
    State.seat_mapSeat_self]
  rfl

/-- Settles O28: the image of a seat in OFF shows OFF, so the write moves its generation; the timer does not run on either
side. -/
theorem startSeatBringsIntoUse : Obligations.StartSeatBringsIntoUse := by
  intro k s h hl hi
  constructor
  · intro hoff
    have hstart := startSeat_eq (s := carriedFrom s []) hi hoff
    have hsettle := settle_one (k := k) (c := { s.seat k with state := .idle }) (x := startSeat k (carriedFrom s [])) hl
      (by rw [hstart]; rfl) (by rw [hstart]; rfl) (by rw [hstart]; rfl)
    have hnone : idleTimerAfter k (startSeat k (carriedFrom s [])) = (s.seat k).idleTimer := by
      rw [idleTimer_of_state hl (by rw [hoff]; nofun) (by rw [hoff]; nofun)]
      refine idleTimerAfter_of_state ?_ ?_ <;> rw [hstart] <;> cases k <;> nofun
    have hcarry : carryStartSeat (seatCode k) (carriedFrom s []) = (.ok, settle (startSeat k (carriedFrom s []))) := by
      rw [carryStartSeat, carryContent_seat, show (carriedFrom s []).seat k = s.seat k from rfl, hoff]
    rw [hsettle, hnone, hstart] at hcarry
    exact ⟨_, exec_carried h rfl (checkContent_some (readSeatByte_code k) _) hcarry rfl, rfl⟩
  · intro hoff
    refine exec_read (reply := noReply) h (readSeatByte_code k) rfl rfl rfl ?_
    simp only [noReply, show (carriedFrom s []).seat k = s.seat k from rfl]
    split
    · exact absurd ‹_› hoff
    all_goals rfl

end Sys2Proof.Proofs.Say
end

section
/-! PROOFS. The candidates of a pick (R37, R39). -/
namespace Sys2Proof.Proofs.Candidates
open Sys2Proof Sys2Proof.Machine Sys2Proof.Proofs.Pick

theorem mem_wordIndexes (w : WordIndex) : w ∈ wordIndexes :=
  List.mem_map.mpr ⟨w.val, List.mem_range.mpr w.isLt, Fin.ext (Nat.mod_eq_of_lt w.isLt)⟩

theorem mem_enabledWords (w : WordIndex) (s : State) : w ∈ enabledWords s ↔ (s.word w).enabled = true := by
  rw [enabledWords, List.mem_filter]
  exact and_iff_right (mem_wordIndexes w)

/-- The enabled words but the previous one. -/
def otherWords (k : Seat) (s : State) : List WordIndex :=
  (enabledWords s).filter fun w => decide ((s.seat k).previousWord ≠ some w)

theorem mem_otherWords (k : Seat) (w : WordIndex) (s : State) :
    w ∈ otherWords k s ↔ (s.word w).enabled = true ∧ (s.seat k).previousWord ≠ some w := by
  rw [otherWords, List.mem_filter, mem_enabledWords, decide_eq_true_iff]

theorem pickCandidates_eq (k : Seat) (s : State) :
    pickCandidates k s = if (otherWords k s).isEmpty then enabledWords s else otherWords k s := rfl

/-- With no other word enabled, every enabled word is the previous one. -/
theorem otherWords_empty_iff (k : Seat) (s : State) :
    (otherWords k s).isEmpty = true ↔ ∀ v, (s.word v).enabled = true → (s.seat k).previousWord = some v := by
  rw [List.isEmpty_iff, List.eq_nil_iff_forall_not_mem]
  simp only [mem_otherWords, not_and, Classical.not_not]

theorem mem_pickCandidates (k : Seat) (w : WordIndex) (s : State) :
    w ∈ pickCandidates k s ↔ (s.word w).enabled = true
      ∧ ((s.seat k).previousWord ≠ some w ∨ ∀ v : WordIndex, (s.word v).enabled = true → v = w) := by
  rw [pickCandidates_eq]
  split
  case isTrue hempty =>
    have hprevious := (otherWords_empty_iff k s).mp hempty
    rw [mem_enabledWords]
    refine ⟨fun hw => ⟨hw, .inr fun v hv => ?_⟩, And.left⟩
    exact Option.some.inj ((hprevious v hv).symm.trans (hprevious w hw))
  case isFalse hsome =>
    rw [mem_otherWords]
    refine and_congr_right fun hw => ⟨.inl, fun h => h.elim id fun honly hprevious => hsome ?_⟩
    exact (otherWords_empty_iff k s).mpr fun v hv => by rw [hprevious, honly v hv]

theorem pickCandidates_eq_nil_iff (k : Seat) (s : State) :
    pickCandidates k s = [] ↔ ∀ w : WordIndex, (s.word w).enabled = false := by
  constructor
  · intro hnil w
    refine Bool.eq_false_iff.mpr fun hw => ?_
    have hnone : ∀ v, ¬ ((s.word v).enabled = true ∧ _) := fun v hv =>
      List.not_mem_nil (hnil ▸ (mem_pickCandidates k v s).mpr hv)
    have hprevious : (s.seat k).previousWord = some w := Classical.not_not.mp fun h => hnone w ⟨hw, .inl h⟩
    refine hnone w ⟨hw, .inr fun v hv => ?_⟩
    have : (s.seat k).previousWord = some v := Classical.not_not.mp fun h => hnone v ⟨hv, .inl h⟩
    exact Option.some.inj (this.symm.trans hprevious)
  · intro hoff
    refine List.eq_nil_iff_forall_not_mem.mpr fun w hw => ?_
    exact Bool.false_ne_true ((hoff w).symm.trans ((mem_pickCandidates k w s).mp hw).1)

theorem pickWord_eq_none_iff (k : Seat) (s : State) :
    pickWord k s = none ↔ ∀ w : WordIndex, (s.word w).enabled = false := by
  rw [← pickCandidates_eq_nil_iff k s]
  refine ⟨fun hnone => ?_, pickWord_eq_none⟩
  refine Classical.byContradiction fun hne => ?_
  obtain ⟨w, hw, -, -⟩ := exists_pickWord hne
  rw [hw] at hnone
  cases hnone

/-- Settles O23: an enabled word is left out only as the previous one of several. -/
theorem pickCandidatesAreTheEnabledWords : Obligations.PickCandidatesAreTheEnabledWords :=
  fun k s => ⟨fun w => mem_pickCandidates k w s, pickWord_eq_none_iff k s⟩

end Sys2Proof.Proofs.Candidates
end

section
/-! PROOFS. The report queue, the fault record and the counters, in the terms of the statements (R149 to R162). -/
namespace Sys2Proof.Proofs.Reports
open Sys2Proof Sys2Proof.Machine Sys2Proof.Safety Sys2Proof.Proofs.Refusals Sys2Proof.Proofs.Requests

/-! ## Records, faults, counts -/

theorem count_eq (c : Counter) : c.count = counted c := by
  unfold Counter.count counted
  split
  case isTrue h =>
    rw [show (BitVec.allOnes 16 : Word16) = 65535 from rfl] at h
    rw [if_pos h, ← h]
  case isFalse h => exact (if_neg h).symm

theorem saturatingSucc_byte (x : Byte) : saturatingSucc x = if x = 255 then 255 else x + 1 := by
  unfold saturatingSucc
  split
  case isTrue h => exact h.trans (if_pos (c := x = 255) h).symm
  case isFalse h => exact (if_neg h).symm

theorem saturatingSucc_word (x : Word16) : saturatingSucc x = if x = 65535 then 65535 else x + 1 := by
  unfold saturatingSucc
  split
  case isTrue h => exact h.trans (if_pos (c := x = 65535) h).symm
  case isFalse h => exact (if_neg h).symm

/-- Raising a fault fills the record or counts in it (R159). -/
theorem raiseFault_eq (kind : FaultKind) (detail : Byte) (s : State) : raiseFault kind detail s = faulted kind detail s := by
  unfold raiseFault faulted withFault
  cases s.reports.fault
  · rfl
  · simp only [saturatingSucc_byte]

theorem agedHolds_iff (s : State) :
    agedHolds s = true ↔ s.reports.tAge ≠ 0 ∧ ∃ r rest, s.reports.queue = r :: rest
      ∧ s.reports.tAge.toNat ≤ (s.clock - r.stamp).toNat := by
  unfold agedHolds headAge
  cases s.reports.queue with
  | nil => simp
  | cons r rest => simp

theorem takeRecord_eq (body : Report) (s : State) : takeRecord body s = { s with reports := withRecord s body } := by
  unfold takeRecord refreshCauses agedHolds headAge withRecord stamped
  cases s.reports.queue <;> rfl

theorem reportRoom_iff (s : State) : reportRoom s = true ↔ s.reports.queue.length < 16 := decide_eq_true_iff

/-- A record that is no WORD_RESULT joins the queue, or is lost and raised (R150, R151). -/
theorem offerRecord_eq (body : Report) (s : State) : offerRecord body s = { s with reports := offered s body } := by
  unfold offerRecord offered
  by_cases hroom : s.reports.queue.length < 16
  · rw [if_pos ((reportRoom_iff s).mpr hroom), if_pos hroom, takeRecord_eq]
  · rw [if_neg fun h => hroom ((reportRoom_iff s).mp h), if_neg hroom, raiseFault_eq, count_eq]
    rfl

theorem postEvent_eq (k : Seat) (event : SeatEvent) (s : State) :
    postEvent k event s = { s with reports := offered s (.seatEvent k event) } := offerRecord_eq _ s

theorem tryPost_of_full {k : Seat} {s : State} (h : 16 ≤ s.reports.queue.length) : tryPost k s = s := by
  unfold tryPost
  split
  · rfl
  · exact if_neg fun hroom => Nat.not_lt_of_le h ((reportRoom_iff s).mp hroom)

/-- Settles O39: the room in the queue decides over every record. -/
theorem offeredRecordJoinsOrIsLost : Obligations.OfferedRecordJoinsOrIsLost := by
  intro body s
  refine ⟨fun hroom => ?_, fun hfull k => tryPost_of_full hfull, fun hfull _ => ?_⟩
  · rw [offerRecord_eq, offered, if_pos hroom]
  · rw [offerRecord_eq, offered, if_neg (Nat.not_lt_of_le hfull)]
    rfl

/-! ## AGED -/

/-- Settles O38: the head's age decides, and an AGED that is not due leaves lines that follow already. -/
theorem agedBecomesPending : Obligations.AgedBecomesPending := by
  intro r rest s hl hqueue
  have hexec : exec .agedExpiry s = .next (settle (fireAged s)) := rfl
  refine ⟨fun hage hdue => ?_, fun hnot => ?_⟩
  · have hfire : fireAged s = { s with reports := { s.reports with agedPending := true } } :=
      if_pos ((agedHolds_iff s).mpr ⟨hage, r, rest, hqueue, hdue⟩)
    have hsettle := settle_none (x := fireAged s) hl (by rw [hfire]) (by rw [hfire])
    rw [hfire] at hexec hsettle
    rw [hsettle] at hexec
    exact ⟨_, hexec, rfl, fun henabled => (attnLevel_iff _).mpr (.inr (.inr (.inr ⟨rfl, henabled⟩)))⟩
  · have hfire : fireAged s = s := if_neg fun h => by
      obtain ⟨hage, r', rest', hqueue', hdue⟩ := (agedHolds_iff s).mp h
      rw [hqueue] at hqueue'
      cases hqueue'
      exact hnot.elim (fun h => Nat.not_lt_of_le hdue h) hage
    rw [hexec, hfire, settle_eq_self hl]

/-! ## READ CAUSE, READ FAULT, CLEAR FAULT, SET CAUSES -/

/-- The top cause of four flags is the first that is set (R158). -/
theorem topOf_iff (fault hold level aged : Bool) :
    let top : Byte := if fault then 1 else if hold then 2 else if level then 3 else if aged then 4 else 0
    (top = 0 ↔ (fault || hold || level || aged) = false) ∧ (top = 1 ↔ fault = true)
      ∧ (top = 2 ↔ ¬ fault = true ∧ hold = true) ∧ (top = 3 ↔ ¬ fault = true ∧ ¬ hold = true ∧ level = true)
      ∧ (top = 4 ↔ ¬ fault = true ∧ ¬ hold = true ∧ ¬ level = true ∧ aged = true) := by
  revert fault hold level aged
  decide

/-- The cause bits are four flags. -/
theorem causesByte_bits (c : Causes) :
    (causesByte c).toNat < 16 ∧ (causesByte c).getLsbD 0 = c.fault ∧ (causesByte c).getLsbD 1 = c.hold
      ∧ (causesByte c).getLsbD 2 = c.level ∧ (causesByte c).getLsbD 3 = c.aged := by
  obtain ⟨fault, hold, level, aged⟩ := c
  revert fault hold level aged
  decide

theorem causesByte_readCauses (x : Byte) : causesByte (readCauses x) = x &&& 15 := by
  revert x
  decide

theorem holds_iff (s : State) :
    (s.seats.a.holding || s.seats.b.holding) = true ↔ ∃ k, (s.seat k).pendingResult ≠ none := by
  rw [Bool.or_eq_true, SeatContext.holding, SeatContext.holding, Option.isSome_iff_ne_none, Option.isSome_iff_ne_none]
  exact ⟨fun h => h.elim (fun h => ⟨.a, h⟩) fun h => ⟨.b, h⟩, fun | ⟨.a, h⟩ => .inl h | ⟨.b, h⟩ => .inr h⟩

theorem fault_iff (s : State) : s.reports.fault.isSome = true ↔ s.reports.fault ≠ none := Option.isSome_iff_ne_none

theorem exec_readCause {s : State} (h : PortIdle s) :
    exec (.readCause .frameEnd) s = .next
      { s with port := framePort s .ok [topCause s, causesByte (causesPending s), byteOf s.reports.queue.length] } :=
  exec_carried h rfl rfl rfl rfl

theorem exec_readFault {s : State} (h : PortIdle s) :
    exec (.readFault .frameEnd) s = .next { s with port := framePort s .ok (faultReply s.reports.fault) } :=
  exec_carried h rfl rfl rfl rfl

/-- CLEAR FAULT shows the record and empties it (R161). -/
theorem exec_clearFault {s : State} (h : PortIdle s) (hl : LinesFollow s) :
    exec (.clearFault .frameEnd) s = .next
      { s with
        reports := { s.reports with fault := none }, port := framePort s .ok (faultReply s.reports.fault),
        pins := pinLevels { s with reports := { s.reports with fault := none } } } :=
  exec_carried h rfl rfl (congrArg (Prod.mk LessonOutcome.ok) (settle_none (x := { carriedFrom s (faultReply s.reports.fault) with
    reports := { s.reports with fault := none } }) hl rfl rfl)) rfl

/-- READ CAUSE shows the causes as the lines have them (R158). -/
theorem readCause_shows {s : State} (h : PortIdle s) (hl : LinesFollow s) :
    let fault := s.reports.fault ≠ none ∧ s.reports.enables.fault = true
    let hold := (∃ k, (s.seat k).pendingResult ≠ none) ∧ s.reports.enables.hold = true
    let level := s.reports.trigger.toNat ≤ s.reports.queue.length ∧ s.reports.enables.level = true
    let aged := s.reports.agedPending = true ∧ s.reports.enables.aged = true
    ∃ top pending : Byte,
      exec (.readCause .frameEnd) s = .next
        { s with port := framePort s .ok [top, pending, byteOf s.reports.queue.length] }
      ∧ (top = 0 ↔ s.pins.attn = false) ∧ (top = 1 ↔ fault) ∧ (top = 2 ↔ ¬ fault ∧ hold)
      ∧ (top = 3 ↔ ¬ fault ∧ ¬ hold ∧ level) ∧ (top = 4 ↔ ¬ fault ∧ ¬ hold ∧ ¬ level ∧ aged)
      ∧ pending.toNat < 16 ∧ (pending.getLsbD 0 = true ↔ s.reports.fault ≠ none)
      ∧ (pending.getLsbD 1 = true ↔ ∃ k, (s.seat k).pendingResult ≠ none)
      ∧ (pending.getLsbD 2 = true ↔ s.reports.trigger.toNat ≤ s.reports.queue.length)
      ∧ pending.getLsbD 3 = s.reports.agedPending := by
  intro fault hold level aged
  have hfault : (causesDriving s).fault = true ↔ fault := Bool.and_eq_true_iff.trans (and_congr_left fun _ => fault_iff s)
  have hhold : (causesDriving s).hold = true ↔ hold := Bool.and_eq_true_iff.trans (and_congr_left fun _ => holds_iff s)
  have hlevel : (causesDriving s).level = true ↔ level :=
    Bool.and_eq_true_iff.trans (and_congr_left fun _ => decide_eq_true_iff)
  have haged : (causesDriving s).aged = true ↔ aged := Bool.and_eq_true_iff
  have hattn : s.pins.attn = attnLevel s := congrArg Pins.attn ((linesFollow_iff s).mp hl).1
  obtain ⟨h0, h1, h2, h3, h4⟩ := topOf_iff (causesDriving s).fault (causesDriving s).hold (causesDriving s).level
    (causesDriving s).aged
  obtain ⟨hlt, hb0, hb1, hb2, hb3⟩ := causesByte_bits (causesPending s)
  refine ⟨_, _, exec_readCause h, ?_, h1.trans hfault, h2.trans (and_congr (not_congr hfault) hhold),
    h3.trans (and_congr (not_congr hfault) (and_congr (not_congr hhold) hlevel)),
    h4.trans (and_congr (not_congr hfault) (and_congr (not_congr hhold) (and_congr (not_congr hlevel) haged))),
    hlt, ?_, ?_, ?_, hb3⟩
  · rw [hattn]; exact h0
  · rw [hb0]; exact fault_iff s
  · rw [hb1]; exact holds_iff s
  · rw [hb2]; exact decide_eq_true_iff

/-- Settles O35: the causes one by one, and the fault record as it stands. -/
theorem reportReadsAndClearFault : Obligations.ReportReadsAndClearFault := by
  refine ⟨fun s h hl => ⟨readCause_shows h hl, fun hnone => ⟨?_, ?_⟩, fun f hsome => ?_⟩, fun f s h hl hsome => ?_⟩
  · rw [exec_readFault h, hnone]
    rfl
  · have hsame : ({ s.reports with fault := none } : ReportUnit) = s.reports := by rw [← hnone]
    rw [exec_clearFault h hl, hnone, hsame, ← ((linesFollow_iff s).mp hl).1]
    rfl
  · rw [exec_readFault h, hsome]
    rfl
  · refine ⟨_, exec_clearFault h hl, ?_⟩
    rw [hsome]
    rfl

/-- Settles O36: what is stored is held in its range, and AGED is worked out from it. -/
theorem setCausesStoresAndWorksOut : Obligations.SetCausesStoresAndWorksOut := by
  intro enables trigger tAge s h hl
  have hcheck : checkRequest (.setCauses .frameEnd enables trigger tAge) s = .accepted
      ([enables &&& 15, clampTrigger trigger] ++ bytes16 (pullTAge (wordOf tAge))) := by
    rw [← causesByte_readCauses]
    rfl
  have hsettle := fun reply => settle_none (s := s) (x := refreshCauses { carriedFrom s reply with
    reports := { s.reports with
      enables := readCauses enables, trigger := clampTrigger trigger, tAge := pullTAge (wordOf tAge) } }) hl rfl rfl
  refine ⟨_, exec_carried h rfl hcheck (congrArg (Prod.mk LessonOutcome.ok) (hsettle _)) rfl, rfl, rfl, pullInto_clamped 1 16 trigger (by decide),
    fun h0 => ?_, pullTAge_clamped, agedHolds_iff _⟩
  exact (congrArg pullTAge h0).trans rfl

/-! ## READ COUNTERS -/

theorem counted_total (c : Counter) : (counted c).value.toNat + (counted c).beyond = c.value.toNat + c.beyond + 1 := by
  rw [← count_eq]
  exact Counter.count_total c

theorem counted_grows (c : Counter) : c.value.toNat ≤ (counted c).value.toNat ∧ c.beyond ≤ (counted c).beyond := by
  unfold counted
  split
  case isTrue h => rw [h]; exact ⟨Nat.le_refl _, Nat.le_succ _⟩
  case isFalse h =>
    have hne : c.value.toNat ≠ 65535 := fun e => h (BitVec.eq_of_toNat_eq e)
    have hlt := c.value.isLt
    have hone : (1 : Word16).toNat = 1 := rfl
    refine ⟨?_, Nat.le_refl _⟩
    rw [BitVec.toNat_add, hone, Nat.mod_eq_of_lt (by omega)]
    exact Nat.le_succ _

/-- After n counts a counter shows n more, its counts at 65535 included. -/
theorem repeat_counted (c : Counter) (n : Nat) :
    (Nat.repeat counted n c).value.toNat + (Nat.repeat counted n c).beyond = c.value.toNat + c.beyond + n
      ∧ c.value.toNat ≤ (Nat.repeat counted n c).value.toNat ∧ c.beyond ≤ (Nat.repeat counted n c).beyond := by
  induction n with
  | zero => exact ⟨rfl, Nat.le_refl _, Nat.le_refl _⟩
  | succ n ih =>
    obtain ⟨htotal, hvalue, hbeyond⟩ := ih
    obtain ⟨hv, hb⟩ := counted_grows (Nat.repeat counted n c)
    have := counted_total (Nat.repeat counted n c)
    rw [Nat.repeat]
    omega

theorem countsSince_repeat (shown : Counter) (n : Nat) :
    countsSince shown (Nat.repeat counted n shown) = { value := BitVec.ofNat 16 (min 65535 n), beyond := 0 } := by
  obtain ⟨htotal, hvalue, hbeyond⟩ := repeat_counted shown n
  have hsub : ((Nat.repeat counted n shown).value - shown.value).toNat
      = (Nat.repeat counted n shown).value.toNat - shown.value.toNat :=
    BitVec.toNat_sub_of_le (BitVec.le_def.mpr hvalue)
  have hn : (Nat.repeat counted n shown).value.toNat - shown.value.toNat
      + ((Nat.repeat counted n shown).beyond - shown.beyond) = n := by omega
  rw [countsSince, hsub, hn]

/-- Settles O37: the frame's own reply is what the clear takes off, at once or at a later frame end. -/
theorem readCountersShowsAndClears : Obligations.ReadCountersShowsAndClears := by
  refine ⟨fun flags s h => ⟨fun hclear => ?_, fun hclear => ?_, ?_⟩, fun flags shown s hlow hframe => ?_, countsSince_repeat⟩
  · exact exec_carried h rfl rfl (congrArg (Prod.mk LessonOutcome.ok) (if_neg (Bool.eq_false_iff.mp hclear))) rfl
  · refine exec_carried h rfl rfl (congrArg (Prod.mk LessonOutcome.ok) (if_pos hclear)) ?_
    simp only [reduceCounters, shownNow, counters, carriedFrom, Counter.reduce_self]
    rfl
  · have hexec : exec (.readCounters .request flags) s = .next (receive (.readCounters .request flags) (openFrame s)) := rfl
    rw [openFrame_of_idle h] at hexec
    exact ⟨_, hexec, rfl, rfl, rfl⟩
  · have hexec : exec .shortFrame s = .next (endFrame s) := by
      rw [Frames.exec_shortFrame, Frames.openFrame_of_low hlow]
    have hend : endFrame s = recordOutcome .ok
        (if flags.getLsbD 0 then reduceCounters shown.counters (closePort s) else closePort s) := by
      rw [endFrame, hframe]
      rfl
    rw [hexec, hend]
    refine ⟨fun hclear => ?_, fun hclear => ?_⟩
    · rw [hclear]
      rfl
    · rw [if_pos hclear]
      rfl

/-! ## READ REPORTS without a seat that holds -/

theorem recordBytes_length (r : Record) : (recordBytes r).length = 16 := by
  have htail : (reportTail r.body).length = 11 := by cases r.body <;> rfl
  rw [recordBytes, List.length_append, htail]
  rfl

theorem reportsReply_length (queue : List Record) : (reportsReply queue).length = 1 + 16 * queue.length := by
  have hrecords : (queue.flatMap recordBytes).length = 16 * queue.length := by
    induction queue with
    | nil => rfl
    | cons r rest ih =>
      rw [List.flatMap_cons, List.length_append, ih, recordBytes_length, List.length_cons]
      omega
  rw [reportsReply, List.length_cons, hrecords]
  omega

theorem checkRequest_readReports (clocked : Nat) (room : RoomOrder) (s : State) :
    checkRequest (.readReports .frameEnd clocked room) s = .accepted (reportsReply s.reports.queue) := rfl

/-- The state once the records of a READ REPORTS have left the queue (R154). -/
def recordsTaken (n : Nat) (s : State) : State := refreshCauses (lessRecords n s)

theorem carryReadReports_none {clocked : Nat} {room : RoomOrder} {shown : Shown} {s : State}
    (h : wholeRecords clocked shown.reportCount = 0) :
    carryReadReports clocked room shown s = (.ok, meetEach room.met s) := if_pos h

theorem carryReadReports_some {clocked n : Nat} {room : RoomOrder} {shown : Shown} {s : State}
    (h : wholeRecords clocked shown.reportCount = n) (hn : n ≠ 0) :
    carryReadReports clocked room shown s = (.ok, settle (tellRoom room (meetEach room.met (recordsTaken n s)))) := by
  subst h
  exact if_neg hn

theorem tellRoom_of_none (room : RoomOrder) {s : State} (h : ∀ k, (s.seat k).pendingResult = none) :
    tellRoom room s = s := by
  simp [tellRoom, SeatContext.holding, h]

/-- Whatever meets its end, the frame is answered OK with the queue's records, and the port is otherwise left. -/
theorem readReports_port (clocked : Nat) (room : RoomOrder) {s : State} (h : PortIdle s) :
    ∃ t, exec (.readReports .frameEnd clocked room) s = .next t
      ∧ t.port = framePort s .ok (reportsReply s.reports.queue) := by
  have hcarry : ∃ t, carryReadReports clocked room (shownNow s) (carriedFrom s (reportsReply s.reports.queue)) = (.ok, t)
      ∧ t.port = (carriedFrom s (reportsReply s.reports.queue)).port := by
    by_cases hn : wholeRecords clocked (shownNow s).reportCount = 0
    · exact ⟨_, carryReadReports_none hn, by simp⟩
    · exact ⟨_, carryReadReports_some rfl hn, by simp [recordsTaken, lessRecords]⟩
  obtain ⟨t, ht, hport⟩ := hcarry
  exact ⟨_, exec_carried h rfl (checkRequest_readReports _ _ _) ht rfl, by rw [recordOutcome, hport]; rfl⟩

/-- Settles O33: the records clocked out whole are those that leave the queue, and past the reply there is filler. -/
theorem readReportsTakesWholeRecords : Obligations.ReadReportsTakesWholeRecords := by
  intro clocked room s h r reply
  refine ⟨fun hl hnone hmet => ?_, ?_⟩
  · have hr : wholeRecords clocked (shownNow s).reportCount = r := rfl
    by_cases hzero : r = 0
    · have hcarry := carryReadReports_none (room := room) (s := carriedFrom s reply) (hr.trans hzero)
      rw [hmet] at hcarry
      refine ⟨_, exec_carried h rfl (checkRequest_readReports _ _ _) hcarry rfl, ?_, fun _ => rfl⟩
      rw [hzero]
      rfl
    · have hcarry := carryReadReports_some (room := room) (s := carriedFrom s reply) hr hzero
      have hsettle := settle_none (s := s) (x := recordsTaken r (carriedFrom s reply)) hl rfl rfl
      have htell : tellRoom room (recordsTaken r (carriedFrom s reply)) = recordsTaken r (carriedFrom s reply) :=
        tellRoom_of_none room hnone
      rw [hmet] at hcarry
      change _ = (_, settle (tellRoom room (recordsTaken r (carriedFrom s reply)))) at hcarry
      rw [htell, hsettle] at hcarry
      exact ⟨_, exec_carried h rfl (checkRequest_readReports _ _ _) hcarry rfl, rfl, fun e => absurd e hzero⟩
  · obtain ⟨t, ht, hport⟩ := readReports_port clocked room h
    refine ⟨t, ht, hport, fun n hn => ?_⟩
    rw [State.lessonByte, hport, replyByte]
    exact Lists.getD_of_le (by rw [framePort, reportsReply_length]; exact hn) _

end Sys2Proof.Proofs.Reports
end

section
/-! PROOFS. READ SEAT (R74). -/
namespace Sys2Proof.Proofs.ReadSeat
open Sys2Proof Sys2Proof.Machine Sys2Proof.Safety Sys2Proof.Proofs.Refusals Sys2Proof.Proofs.Requests

/-- The review flags as a byte: three weights, added as bytes or as numbers. -/
theorem reviewFlags (phase : ReviewPhase) (c : SeatContext) :
    byteOf ((if phase = .final then 1 else 0) + (if c.feedbackPending then 2 else 0) + (if c.holding then 4 else 0)) =
      (match phase with | .retry => 0 | .final => 1) + (if c.reviewFeedback ≠ none then 2 else 0)
        + (if c.pendingResult ≠ none then 4 else 0) := by
  unfold SeatContext.feedbackPending SeatContext.holding
  cases phase <;> cases c.reviewFeedback <;> cases c.pendingResult <;> rfl

theorem flagByte_eq_ite (b : Bool) (p : Prop) [Decidable p] (h : b = true ↔ p) : flagByte b = if p then 1 else 0 := by
  rw [flagByte]
  exact ite_congr (propext h) (fun _ => rfl) fun _ => rfl

theorem symbolBytes_length (line : List Symbol) : (symbolBytes line).length = 20 := by
  rw [symbolBytes, List.length_map, List.length_range, Config.lineSize]

theorem seatReply_length (c : SeatContext) (queue : List KeyEntry) : (seatReply c queue).length = 54 := by
  have hpause : (pauseBytes c.state).length = 2 := by cases c.state <;> rfl
  cases queue with
  | nil => simp only [seatReply, List.length_append, hpause, symbolBytes_length]; rfl
  | cons e rest => simp only [seatReply, List.length_append, hpause, symbolBytes_length]; rfl

/-- Settles O32: the block's bytes by the seat's state and its key queue. -/
theorem readSeatShowsTheContext : Obligations.ReadSeatShowsTheContext := by
  intro k s h c q review reason state head reply
  have hstate : [shownStateCode (shownState c.state), reviewByte c] ++ pauseBytes c.state = state := by
    simp only [state, reviewByte, reviewFlags, review, reason]
    rcases c.state with _ | _ | _ | _ | phase | ⟨r, _ | _ | phase⟩
    all_goals rfl
  have hhead : (match q with
      | e :: _ => [e.code, keyKindCode e.kind] ++ bytes16 e.stamp
      | [] => [Config.filler, Config.filler, 0, 0] : List Byte) = head := by
    simp only [head]
    rcases q with _ | e
    all_goals rfl
  have hholding : flagByte c.holding = if c.pendingResult ≠ none then 1 else 0 :=
    flagByte_eq_ite _ _ Option.isSome_iff_ne_none
  have hoverrun : flagByte (q.any (·.overrun)) = if ∃ e ∈ q, e.overrun = true then 1 else 0 :=
    flagByte_eq_ite _ _ List.any_eq_true
  have hreply : seatReply c q = reply := by
    simp only [seatReply, hstate, hholding, hoverrun, settingsBlock, reply, ← hhead, List.append_assoc] <;> rfl
  have hcheck : checkRequest (.readSeat .frameEnd (seatCode k)) s = .accepted reply := by
    rw [← hreply]
    exact checkContent_some (readSeatByte_code k) _
  exact ⟨by rw [← hreply, seatReply_length], exec_carried h rfl hcheck rfl rfl⟩

end Sys2Proof.Proofs.ReadSeat
end

section
/-! PROOFS. Spell expansions, the figures of a judgement, the distance table and the alignment (R80 to R90, R140). -/
namespace Sys2Proof.Proofs.Judge
open Sys2Proof Sys2Proof.Machine Sys2Proof.Safety

/-! ## Spell expansions -/

/-- Settles O44: the even places give the letters, the odd ones the pauses between two. -/
theorem expansionSpellsTheLetters : Obligations.ExpansionSpellsTheLetters := by
  intro letters
  refine ⟨fun n _ => ?_, fun n hn => ?_, fun place hplace => ?_⟩
  · have heven : ¬ 2 * n % 2 = 1 := by omega
    rw [expansionItem, if_neg heven, List.head?_drop, Nat.mul_div_cancel_left n (by decide)]
  · have hodd : (2 * n + 1) % 2 = 1 := by omega
    have hroom : 2 * n + 1 + 1 < 2 * letters.length := by omega
    rw [expansionItem, if_pos hodd, if_pos hroom]
  · by_cases hodd : place % 2 = 1
    · rw [expansionItem, if_pos hodd, if_neg (Nat.not_lt_of_le hplace)]
    · have hpast : letters.length ≤ place / 2 := by omega
      rw [expansionItem, if_neg hodd, List.drop_of_length_le hpast]
      rfl

/-! ## Aim, verdict, score, mastery, interval -/

theorem aimOf_range {s : Nat} (h : s ≤ 100) :
    aimOf s ≤ 255 ∧ (s < 100 → aimOf (s + 1) = aimOf s + 2 ∨ aimOf (s + 1) = aimOf s + 3) := by
  unfold aimOf
  omega

theorem verdictOf_cases (d : Nat) (hints : Byte) :
    (verdictOf d hints = .exact ↔ d = 0 ∧ hints = 0) ∧ (verdictOf d hints = .helped ↔ d = 0 ∧ hints ≠ 0)
      ∧ (verdictOf d hints = .near ↔ d = 1) ∧ (verdictOf d hints = .missed ↔ 2 ≤ d) := by
  rcases d with _ | _ | d
  · by_cases h : hints = 0
    · simp [verdictOf, h]
    · have hhelped : verdictOf 0 hints = .helped := if_neg h
      rw [hhelped]
      exact ⟨⟨nofun, fun e => absurd e.2 h⟩, ⟨fun _ => ⟨rfl, h⟩, fun _ => rfl⟩, ⟨nofun, nofun⟩, nofun, fun e => absurd e (by decide)⟩
  · simp [verdictOf]
  · simp [verdictOf]

theorem scoreOf_eq {d hints tries : Nat} (h : 1 ≤ tries) :
    (scoreOf d hints tries : Int) = max 0 (100 - 30 * d - 15 * hints - 10 * ((tries : Int) - 1)) := by
  unfold scoreOf
  omega

theorem scoreOf_le (d hints tries : Nat) : scoreOf d hints tries ≤ 100 := Nat.sub_le _ _

/-- The new mastery lies between the old one and the aim, so that it needs no clamp (R88). -/
theorem newMasteryOf_between {old score gain : Nat} (hlow : 1 ≤ gain) (hhigh : gain ≤ 8) (hold : old ≤ 255)
    (hscore : score ≤ 100) :
    min old (aimOf score) ≤ newMasteryOf old score gain ∧ newMasteryOf old score gain ≤ max old (aimOf score)
      ∧ (newMasteryOf old score gain : Int) = old + (((aimOf score : Int) - old) * gain + 4) / 8 := by
  have haim := (aimOf_range hscore).1
  have hdef : newMasteryOf old score gain =
      (max 0 (min 255 ((old : Int) + (((aimOf score : Int) - old) * gain + 4) / 8))).toNat := rfl
  rw [hdef]
  generalize aimOf score = aim at haim
  obtain rfl | rfl | rfl | rfl | rfl | rfl | rfl | rfl : gain = 1 ∨ gain = 2 ∨ gain = 3 ∨ gain = 4 ∨ gain = 5 ∨ gain = 6
      ∨ gain = 7 ∨ gain = 8 := by omega
  all_goals omega

/-- The interval by the verdict, the band of the mastery and the streak (R90). -/
theorem intervalOf_cases (e0 e1 e2 e3 streak : Byte) {mastery : Nat} (h : mastery < 256) :
    let table : Vector Byte 4 := #v[e0, e1, e2, e3]
    let e := if mastery < 64 then e0 else if mastery < 128 then e1 else if mastery < 192 then e2 else e3
    intervalOf table .exact mastery streak = (if 3 ≤ streak.toNat then 2 * e.toNat else e.toNat)
      ∧ intervalOf table .helped mastery streak = e.toNat ∧ intervalOf table .near mastery streak = e0.toNat
      ∧ intervalOf table .missed mastery streak = 1 := by
  intro table e
  have hband : table.toList.getD (bandOf mastery) 0 = e := by
    unfold bandOf
    rcases (by omega : mastery / 64 = 0 ∧ mastery < 64 ∨ mastery / 64 = 1 ∧ 64 ≤ mastery ∧ mastery < 128
      ∨ mastery / 64 = 2 ∧ 128 ≤ mastery ∧ mastery < 192 ∨ mastery / 64 = 3 ∧ 192 ≤ mastery) with
      ⟨hb, h0⟩ | ⟨hb, h1, h2⟩ | ⟨hb, h1, h2⟩ | ⟨hb, h1⟩
    · rw [hb]; exact (if_pos h0).symm
    · rw [hb]; exact ((if_neg (by omega)).trans (if_pos h2)).symm
    · rw [hb]; exact ((if_neg (by omega)).trans ((if_neg (by omega)).trans (if_pos h2))).symm
    · rw [hb]; exact ((if_neg (by omega)).trans ((if_neg (by omega)).trans (if_neg (by omega)))).symm
  exact ⟨by rw [intervalOf, hband], by rw [intervalOf, hband], rfl, rfl⟩

/-- Settles O59: each figure by its own rule. -/
theorem judgementFiguresStayInRange : Obligations.JudgementFiguresStayInRange := by
  refine ⟨⟨rfl, rfl, fun s h => ⟨rfl, aimOf_range h⟩⟩, fun d tries old gain hints => ?_, ?_⟩
  · obtain ⟨hexact, hhelped, hnear, hmissed⟩ := verdictOf_cases d hints
    exact ⟨hexact, hhelped, hnear, hmissed, scoreOf_eq,
      fun hlow hhigh hold => newMasteryOf_between hlow hhigh hold (scoreOf_le _ _ _)⟩
  · exact fun e0 e1 e2 e3 streak mastery h => intervalOf_cases e0 e1 e2 e3 streak h

/-! ## The distance table -/

theorem letterAt_of_pos {i : Nat} (h : 1 ≤ i) (letters : List Byte) : letterAt letters i = letters[i - 1]? := by
  rw [letterAt, if_neg (Nat.ne_of_gt h), List.head?_drop]

theorem lettersMatch_iff {entry target : List Byte} {i j : Nat} (hi : 1 ≤ i) (hj : 1 ≤ j) :
    lettersMatch entry target i j = true ↔ entry[i - 1]? = target[j - 1]? := by
  rw [lettersMatch, decide_eq_true_iff, letterAt_of_pos hi, letterAt_of_pos hj]

theorem swapsAt_iff (entry target : List Byte) (i j : Nat) :
    swapsAt entry target i j = true ↔
      2 ≤ i ∧ 2 ≤ j ∧ entry[i - 1]? = target[j - 2]? ∧ entry[i - 2]? = target[j - 1]? := by
  simp only [swapsAt, Bool.and_eq_true, decide_eq_true_eq, and_assoc]
  refine and_congr_right fun hi => and_congr_right fun hj => ?_
  rw [letterAt_of_pos (by omega) entry, letterAt_of_pos (by omega) target, letterAt_of_pos (by omega) entry,
    letterAt_of_pos (by omega) target]
  rfl

section Table
variable {entry target : List Byte}

/-- Row i of the table, from the two rows before it. -/
def rowFrom (entry target : List Byte) (i : Nat) (twoRowsBack rowBefore : List Nat) : List Nat :=
  i :: fillRow entry target i twoRowsBack rowBefore target.length 1 i

theorem getD_fillRow (i : Nat) (twoRowsBack rowBefore : List Nat) {todo x : Nat} (h : x < todo) (j left : Nat) :
    (left :: fillRow entry target i twoRowsBack rowBefore todo j left).getD (x + 1) 0 =
      cellValue entry target i (j + x) (rowBefore.getD (j + x) 0)
        ((left :: fillRow entry target i twoRowsBack rowBefore todo j left).getD x 0)
        (rowBefore.getD (j + x - 1) 0) (twoRowsBack.getD (j + x - 2) 0) := by
  induction todo generalizing x j left with
  | zero => exact absurd h (Nat.not_lt_zero x)
  | succ todo ih =>
    cases x with
    | zero => rfl
    | succ x =>
      rw [fillRow, List.getD_cons_succ, ih (Nat.lt_of_succ_lt_succ h), List.getD_cons_succ,
        show j + 1 + x = j + (x + 1) by omega]

theorem getD_fillRows {todo x : Nat} (h : x < todo) (i : Nat) (twoRowsBack rowBefore : List Nat) :
    (rowBefore :: fillRows entry target todo i twoRowsBack rowBefore).getD (x + 1) [] =
      rowFrom entry target (i + x)
        (if x = 0 then twoRowsBack else (rowBefore :: fillRows entry target todo i twoRowsBack rowBefore).getD (x - 1) [])
        ((rowBefore :: fillRows entry target todo i twoRowsBack rowBefore).getD x []) := by
  induction todo generalizing x i twoRowsBack rowBefore with
  | zero => exact absurd h (Nat.not_lt_zero x)
  | succ todo ih =>
    cases x with
    | zero => rfl
    | succ x =>
      rw [fillRows, List.getD_cons_succ, ih (Nat.lt_of_succ_lt_succ h), List.getD_cons_succ,
        show i + 1 + x = i + (x + 1) by omega, if_neg (Nat.succ_ne_zero x), Nat.add_sub_cancel]
      cases x <;> rfl

/-- A row after the first of a distance table. -/
theorem row_succ {i : Nat} (h : i < entry.length) :
    (distanceTable entry target).getD (i + 1) [] =
      rowFrom entry target (i + 1) (if i = 0 then [] else (distanceTable entry target).getD (i - 1) [])
        ((distanceTable entry target).getD i []) := by
  rw [show i + 1 = 1 + i from Nat.add_comm i 1]
  exact (congrArg (fun n => (distanceTable entry target).getD n []) (Nat.add_comm 1 i)).trans (getD_fillRows h 1 [] _)

theorem cell_zero_left {j : Nat} (h : j ≤ target.length) : cell (distanceTable entry target) 0 j = j := by
  have hlt : j < (List.range (target.length + 1)).length := by rw [List.length_range]; omega
  exact (Lists.getD_of_lt hlt 0).trans (List.getElem_range hlt)

theorem cell_zero_right {i : Nat} (h : i ≤ entry.length) : cell (distanceTable entry target) i 0 = i := by
  cases i with
  | zero => exact cell_zero_left (Nat.zero_le _)
  | succ i => rw [cell, row_succ h]; rfl

/-- Every other cell is the least of its candidates (R80). -/
theorem cell_succ {i j : Nat} (hi : i < entry.length) (hj : j < target.length) :
    let d := cell (distanceTable entry target)
    let straight := min (min (d i (j + 1) + 1) (d (i + 1) j + 1)) (d i j + if entry[i]? = target[j]? then 0 else 1)
    d (i + 1) (j + 1) =
      if 1 ≤ i ∧ 1 ≤ j ∧ entry[i]? = target[j - 1]? ∧ entry[i - 1]? = target[j]? then
        min straight (d (i - 1) (j - 1) + 1)
      else straight := by
  intro d straight
  have hrow := row_succ (target := target) hi
  have hvalue : d (i + 1) (j + 1) = cellValue entry target (i + 1) (j + 1) (d i (j + 1)) (d (i + 1) j) (d i j)
      ((if i = 0 then [] else (distanceTable entry target).getD (i - 1) []).getD (j - 1) 0) := by
    simp only [d, cell, hrow]
    rw [rowFrom, getD_fillRow _ _ _ hj, Nat.add_comm 1 j]
    rfl
  have hstraight : straight = min (min (d i (j + 1) + 1) (d (i + 1) j + 1))
      (d i j + if lettersMatch entry target (i + 1) (j + 1) then 0 else 1) := by
    simp only [straight, lettersMatch_iff (Nat.succ_pos i) (Nat.succ_pos j)]
    rfl
  have hswap : swapsAt entry target (i + 1) (j + 1) = true ↔
      1 ≤ i ∧ 1 ≤ j ∧ entry[i]? = target[j - 1]? ∧ entry[i - 1]? = target[j]? := by
    rw [swapsAt_iff, Nat.succ_le_succ_iff, Nat.succ_le_succ_iff]
    rfl
  rw [hvalue, cellValue, ← hstraight]
  by_cases h : swapsAt entry target (i + 1) (j + 1) = true
  · have hi0 : i ≠ 0 := Nat.ne_of_gt (hswap.mp h).1
    rw [if_pos h, if_pos (hswap.mp h), if_neg hi0]
    rfl
  · rw [if_neg h, if_neg fun h' => h (hswap.mpr h')]

theorem eq_candidate {value above left diagonal back : Nat} {swaps : Prop} [Decidable swaps]
    (h : value = if swaps then min (min (min above left) diagonal) back else min (min above left) diagonal) :
    value = above ∨ value = left ∨ value = diagonal ∨ (swaps ∧ value = back) := by
  split at h
  case isTrue hswaps =>
    have : value = above ∨ value = left ∨ value = diagonal ∨ value = back := by omega
    exact this.imp_right (.imp_right (.imp_right fun hback => ⟨hswaps, hback⟩))
  case isFalse => omega

/-- A cell has the value of one of its candidates. -/
theorem cell_succ_cases {i j : Nat} (hi : i < entry.length) (hj : j < target.length) :
    let d := cell (distanceTable entry target)
    d (i + 1) (j + 1) = d i (j + 1) + 1 ∨ d (i + 1) (j + 1) = d (i + 1) j + 1
      ∨ (entry[i]? = target[j]? ∧ d (i + 1) (j + 1) = d i j) ∨ d (i + 1) (j + 1) = d i j + 1
      ∨ ((1 ≤ i ∧ 1 ≤ j ∧ entry[i]? = target[j - 1]? ∧ entry[i - 1]? = target[j]?)
        ∧ d (i + 1) (j + 1) = d (i - 1) (j - 1) + 1) := by
  intro d
  rcases eq_candidate (cell_succ hi hj) with h | h | h | h
  · exact .inl h
  · exact .inr (.inl h)
  · by_cases hmatch : entry[i]? = target[j]?
    · exact .inr (.inr (.inl ⟨hmatch, h.trans (congrArg _ (if_pos hmatch))⟩))
    · exact .inr (.inr (.inr (.inl (h.trans (congrArg _ (if_neg hmatch))))))
  · exact .inr (.inr (.inr (.inr h)))

/-- The steps of R81 that may lead to a cell, each with its condition. -/
def PairsAt (entry target : List Byte) (i j : Nat) : Prop :=
  1 ≤ i ∧ 1 ≤ j ∧ entry[i - 1]? = target[j - 1]?
    ∧ cell (distanceTable entry target) i j = cell (distanceTable entry target) (i - 1) (j - 1)

def SwapsTo (entry target : List Byte) (i j : Nat) : Prop :=
  2 ≤ i ∧ 2 ≤ j ∧ entry[i - 1]? = target[j - 2]? ∧ entry[i - 2]? = target[j - 1]?
    ∧ cell (distanceTable entry target) i j = cell (distanceTable entry target) (i - 2) (j - 2) + 1

def SubstitutesAt (entry target : List Byte) (i j : Nat) : Prop :=
  1 ≤ i ∧ 1 ≤ j ∧ cell (distanceTable entry target) i j = cell (distanceTable entry target) (i - 1) (j - 1) + 1

def OmitsAt (entry target : List Byte) (i j : Nat) : Prop :=
  1 ≤ j ∧ cell (distanceTable entry target) i j = cell (distanceTable entry target) i (j - 1) + 1

def InsertsAt (entry target : List Byte) (i j : Nat) : Prop :=
  1 ≤ i ∧ cell (distanceTable entry target) i j = cell (distanceTable entry target) (i - 1) j + 1

/-- Every cell but (0, 0) comes from a neighbour by one of the five steps. -/
theorem cell_attained {i j : Nat} (hi : i ≤ entry.length) (hj : j ≤ target.length) (hne : ¬ (i = 0 ∧ j = 0)) :
    PairsAt entry target i j ∨ SwapsTo entry target i j ∨ SubstitutesAt entry target i j ∨ OmitsAt entry target i j
      ∨ InsertsAt entry target i j := by
  rcases i with _ | i
  · have hj1 : 1 ≤ j := by omega
    refine .inr (.inr (.inr (.inl ⟨hj1, ?_⟩)))
    rw [cell_zero_left hj, cell_zero_left (by omega)]
    omega
  rcases j with _ | j
  · refine .inr (.inr (.inr (.inr ⟨Nat.succ_pos i, ?_⟩)))
    rw [cell_zero_right hi, cell_zero_right (by omega)]
    omega
  rcases cell_succ_cases hi hj with h | h | ⟨hmatch, h⟩ | h | ⟨⟨h1, h2, h3, h4⟩, h⟩
  · exact .inr (.inr (.inr (.inr ⟨Nat.succ_pos i, h⟩)))
  · exact .inr (.inr (.inr (.inl ⟨Nat.succ_pos j, h⟩)))
  · exact .inl ⟨Nat.succ_pos i, Nat.succ_pos j, hmatch, h⟩
  · exact .inr (.inr (.inl ⟨Nat.succ_pos i, Nat.succ_pos j, h⟩))
  · exact .inr (.inl ⟨Nat.succ_le_succ h1, Nat.succ_le_succ h2, h3, h4, h⟩)

/-- A cell is no more than its neighbours' candidates; here those that R80 takes at every cell. -/
theorem cell_le_diagonal {i j : Nat} (hi : i < entry.length) (hj : j < target.length) :
    cell (distanceTable entry target) (i + 1) (j + 1) ≤ cell (distanceTable entry target) i j + 1
      ∧ (entry[i]? = target[j]? →
        cell (distanceTable entry target) (i + 1) (j + 1) ≤ cell (distanceTable entry target) i j) := by
  have hcell := cell_succ hi hj
  dsimp only at hcell
  have hleast : cell (distanceTable entry target) (i + 1) (j + 1) ≤
      cell (distanceTable entry target) i j + if entry[i]? = target[j]? then 0 else 1 := by
    split at hcell <;> omega
  refine ⟨Nat.le_trans hleast (by split <;> omega), fun h => ?_⟩
  rwa [if_pos h] at hleast

/-- A cell is at least the difference of the two prefixes. -/
theorem cell_ge {i j : Nat} (hi : i ≤ entry.length) (hj : j ≤ target.length) :
    i ≤ j + cell (distanceTable entry target) i j ∧ j ≤ i + cell (distanceTable entry target) i j := by
  induction h : i + j using Nat.strongRecOn generalizing i j with
  | ind n ih =>
    subst h
    by_cases hzero : i = 0 ∧ j = 0
    · omega
    rcases cell_attained hi hj hzero with ⟨h1, h2, -, h⟩ | ⟨h1, h2, -, -, h⟩ | ⟨h1, h2, h⟩ | ⟨h1, h⟩ | ⟨h1, h⟩
    · have := ih (i - 1 + (j - 1)) (by omega) (by omega) (by omega) rfl
      omega
    · have := ih (i - 2 + (j - 2)) (by omega) (by omega) (by omega) rfl
      omega
    · have := ih (i - 1 + (j - 1)) (by omega) (by omega) (by omega) rfl
      omega
    · have := ih (i + (j - 1)) (by omega) (by omega) (by omega) rfl
      omega
    · have := ih (i - 1 + j) (by omega) (by omega) (by omega) rfl
      omega

/-- A cell is at most the longer of the two prefixes. -/
theorem cell_le_max {i j : Nat} (hi : i ≤ entry.length) (hj : j ≤ target.length) :
    cell (distanceTable entry target) i j ≤ max i j := by
  induction i generalizing j with
  | zero => rw [cell_zero_left hj]; exact Nat.le_max_right _ _
  | succ i ih =>
    cases j with
    | zero => rw [cell_zero_right hi]; exact Nat.le_max_left _ _
    | succ j =>
      have hdiagonal := (cell_le_diagonal hi hj).1
      have := ih (j := j) (by omega) (by omega)
      omega

/-- A cell is 0 only where the two prefixes are equal: nothing but match steps leads to it. -/
theorem take_eq_of_cell_eq_zero {i j : Nat} (hi : i ≤ entry.length) (hj : j ≤ target.length)
    (h : cell (distanceTable entry target) i j = 0) : entry.take i = target.take j := by
  induction i generalizing j with
  | zero =>
    rw [cell_zero_left hj] at h
    rw [h]
    rfl
  | succ i ih =>
    rcases cell_attained hi hj (by omega) with
      ⟨-, hj1, hmatch, hcell⟩ | ⟨-, -, -, -, hcell⟩ | ⟨-, -, hcell⟩ | ⟨-, hcell⟩ | ⟨-, hcell⟩
    · obtain ⟨j, rfl⟩ := Nat.exists_eq_add_of_le' hj1
      rw [Nat.add_sub_cancel, Nat.add_sub_cancel] at hmatch hcell
      rw [List.take_add_one, List.take_add_one, ih (by omega) (by omega) (hcell.symm.trans h), hmatch]
    all_goals omega

theorem cell_diagonal_self {word : List Byte} {i : Nat} (h : i ≤ word.length) : cell (distanceTable word word) i i = 0 := by
  induction i with
  | zero => exact cell_zero_left h
  | succ i ih => exact Nat.le_zero.mp (Nat.le_trans ((cell_le_diagonal h h).2 rfl) (Nat.le_of_eq (ih (Nat.le_of_succ_le h))))

theorem distance_eq_zero_iff : distance entry target = 0 ↔ entry = target := by
  refine ⟨fun h => ?_, fun h => ?_⟩
  · have := take_eq_of_cell_eq_zero (Nat.le_refl _) (Nat.le_refl _) h
    rwa [List.take_length, List.take_length] at this
  · subst h
    exact cell_diagonal_self (Nat.le_refl _)

end Table

/-- Settles O57: the table cell by cell, and the distance as its last cell. -/
theorem distanceIsTheLeastCount : Obligations.DistanceIsTheLeastCount := by
  refine ⟨fun entry target => ?_, fun entry target => ?_⟩
  · exact ⟨fun j => cell_zero_left, fun i => cell_zero_right, fun i j => cell_succ, rfl⟩
  · obtain ⟨hentry, htarget⟩ := cell_ge (entry := entry) (target := target) (Nat.le_refl _) (Nat.le_refl _)
    exact ⟨distance_eq_zero_iff, cell_le_max (Nat.le_refl _) (Nat.le_refl _), hentry, htarget⟩

/-! ## The alignment -/

section Alignment
variable {entry target : List Byte}

/-- A step is the first of R81's list that holds at the cell where it ends. -/
def ChosenAt (entry target : List Byte) (i j : Nat) (x : AlignStep) : Prop :=
  (PairsAt entry target i j ∧ x = .pair i j)
    ∨ (¬ PairsAt entry target i j ∧ SwapsTo entry target i j ∧ x = .swap i j)
    ∨ (¬ PairsAt entry target i j ∧ ¬ SwapsTo entry target i j ∧ SubstitutesAt entry target i j ∧ x = .substitute i j)
    ∨ (¬ PairsAt entry target i j ∧ ¬ SwapsTo entry target i j ∧ ¬ SubstitutesAt entry target i j
      ∧ OmitsAt entry target i j ∧ x = .omit i j)
    ∨ (¬ PairsAt entry target i j ∧ ¬ SwapsTo entry target i j ∧ ¬ SubstitutesAt entry target i j
      ∧ ¬ OmitsAt entry target i j ∧ InsertsAt entry target i j ∧ x = .insert i j)

theorem chooseStep_chosen {i j : Nat} (hi : i ≤ entry.length) (hj : j ≤ target.length) (hne : ¬ (i = 0 ∧ j = 0)) :
    ChosenAt entry target i j (chooseStep entry target (distanceTable entry target) i j) := by
  have hpairs : (1 ≤ i ∧ 1 ≤ j ∧ lettersMatch entry target i j = true
      ∧ cell (distanceTable entry target) i j = cell (distanceTable entry target) (i - 1) (j - 1)) ↔
      PairsAt entry target i j :=
    and_congr_right fun h1 => and_congr_right fun h2 => and_congr_left fun _ => lettersMatch_iff h1 h2
  have hswaps : (swapsAt entry target i j = true
      ∧ cell (distanceTable entry target) i j = cell (distanceTable entry target) (i - 2) (j - 2) + 1) ↔
      SwapsTo entry target i j := by
    rw [swapsAt_iff, SwapsTo, and_assoc, and_assoc, and_assoc]
  have hattained := cell_attained hi hj hne
  unfold chooseStep
  dsimp only
  split
  case isTrue h => exact .inl ⟨hpairs.mp h, rfl⟩
  case isFalse h =>
  have hp := mt hpairs.mpr h
  split
  case isTrue h => exact .inr (.inl ⟨hp, hswaps.mp h, rfl⟩)
  case isFalse h =>
  have hs := mt hswaps.mpr h
  split
  case isTrue h => exact .inr (.inr (.inl ⟨hp, hs, h, rfl⟩))
  case isFalse h =>
  have hu := h
  split
  case isTrue h => exact .inr (.inr (.inr (.inl ⟨hp, hs, hu, h, rfl⟩)))
  case isFalse h =>
  have hins := (((hattained.resolve_left hp).resolve_left hs).resolve_left hu).resolve_left h
  exact .inr (.inr (.inr (.inr ⟨hp, hs, hu, h, hins, rfl⟩)))

/-- A step that was taken ends in the table and counts the difference of the two cells (R82). -/
theorem chosen_step {i j : Nat} {x : AlignStep} (h : ChosenAt entry target i j x) :
    stepEnd x = (i, j) ∧ (stepTarget x).1 ≤ i ∧ (stepTarget x).2 ≤ j ∧ (stepTarget x).1 + (stepTarget x).2 < i + j
      ∧ cell (distanceTable entry target) i j =
        cell (distanceTable entry target) (stepTarget x).1 (stepTarget x).2 + if isMatch x then 0 else 1 := by
  rcases h with ⟨⟨h1, h2, -, h⟩, rfl⟩ | ⟨-, ⟨h1, h2, -, -, h⟩, rfl⟩ | ⟨-, -, ⟨h1, h2, h⟩, rfl⟩ | ⟨-, -, -, ⟨h1, h⟩, rfl⟩
    | ⟨-, -, -, -, ⟨h1, h⟩, rfl⟩
  · exact ⟨rfl, Nat.sub_le _ _, Nat.sub_le _ _, by simp only [stepTarget]; omega, h⟩
  · exact ⟨rfl, Nat.sub_le _ _, Nat.sub_le _ _, by simp only [stepTarget]; omega, h⟩
  · exact ⟨rfl, Nat.sub_le _ _, Nat.sub_le _ _, by simp only [stepTarget]; omega, h⟩
  · exact ⟨rfl, Nat.le_refl _, Nat.sub_le _ _, by simp only [stepTarget]; omega, h⟩
  · exact ⟨rfl, Nat.sub_le _ _, Nat.le_refl _, by simp only [stepTarget]; omega, h⟩

/-- A property of the cell reached and the steps taken so far, kept by each step back, holds at (0, 0) of all of them. -/
theorem traceFrom_induction {P : Nat × Nat → List AlignStep → Prop}
    (hstep : ∀ i j x taken, i ≤ entry.length → j ≤ target.length → ChosenAt entry target i j x → P (i, j) taken →
      P (stepTarget x) (x :: taken))
    {fuel i j : Nat} {taken : List AlignStep} (hfuel : i + j ≤ fuel) (hi : i ≤ entry.length) (hj : j ≤ target.length)
    (h : P (i, j) taken) : P (0, 0) (traceFrom entry target (distanceTable entry target) fuel i j taken) := by
  induction fuel generalizing i j taken with
  | zero =>
    obtain ⟨rfl, rfl⟩ : i = 0 ∧ j = 0 := by omega
    exact h
  | succ fuel ih =>
    rw [traceFrom]
    split
    case isTrue hzero =>
      obtain ⟨rfl, rfl⟩ := hzero
      exact h
    case isFalse hne =>
      have hchosen := chooseStep_chosen hi hj hne
      obtain ⟨-, hle1, hle2, hlt, -⟩ := chosen_step hchosen
      exact ih (by omega) (Nat.le_trans hle1 hi) (Nat.le_trans hle2 hj) (hstep i j _ taken hi hj hchosen h)

theorem alignment_leads : Leads (0, 0) (alignment entry target) (entry.length, target.length) :=
  traceFrom_induction (P := fun c taken => Leads c taken (entry.length, target.length))
    (fun _ _ _ _ _ _ hx h => ⟨rfl, (chosen_step hx).1 ▸ h⟩) (Nat.le_refl _) (Nat.le_refl _) (Nat.le_refl _) rfl

theorem alignment_chosen : ∀ x ∈ alignment entry target, ∃ i j, i ≤ entry.length ∧ j ≤ target.length
    ∧ ChosenAt entry target i j x :=
  traceFrom_induction (P := fun _ taken => ∀ x ∈ taken, ∃ i j, i ≤ entry.length ∧ j ≤ target.length
      ∧ ChosenAt entry target i j x)
    (fun i j _ _ hi hj hx h => List.forall_mem_cons.mpr ⟨⟨i, j, hi, hj, hx⟩, h⟩) (Nat.le_refl _) (Nat.le_refl _)
    (Nat.le_refl _) nofun

/-- The steps that are no match number the distance (R82). -/
theorem alignment_countP : (alignment entry target).countP (fun x => !isMatch x) = distance entry target := by
  have h := traceFrom_induction (entry := entry) (target := target)
    (P := fun c taken => cell (distanceTable entry target) c.1 c.2 + taken.countP (fun x => !isMatch x) =
      distance entry target)
    (fun i j x taken _ _ hx h => by
      have hcell := (chosen_step hx).2.2.2.2
      rw [List.countP_cons, ← h, hcell]
      cases isMatch x <;> simp
      omega)
    (fuel := entry.length + target.length) (taken := []) (Nat.le_refl _) (Nat.le_refl _) (Nat.le_refl _) rfl
  rwa [cell_zero_left (Nat.zero_le _), Nat.zero_add] at h

/-- A path of match steps alone uses every entry letter. -/
theorem pair_mem_of_leads {steps : List AlignStep} {a b n m : Nat} (h : Leads (a, b) steps (n, m))
    (hmatch : ∀ x ∈ steps, isMatch x = true) {i : Nat} (hlow : a ≤ i) (hhigh : i < n) :
    ∃ j, AlignStep.pair (i + 1) j ∈ steps := by
  induction steps generalizing a b with
  | nil =>
    have : a = n := congrArg Prod.fst h
    omega
  | cons x xs ih =>
    obtain ⟨hx, hxs⟩ := List.forall_mem_cons.mp hmatch
    obtain ⟨htarget, hrest⟩ := h
    cases x with
    | pair i' j' =>
      have ha : i' - 1 = a := congrArg Prod.fst htarget
      by_cases hi : i + 1 = i'
      · exact ⟨j', hi ▸ List.mem_cons_self⟩
      · obtain ⟨j, hj⟩ := ih hrest hxs (by omega)
        exact ⟨j, List.mem_cons_of_mem _ hj⟩
    | _ => cases hx

/-- The first step that is no match gives the first error (R83). -/
theorem firstErrorOf_some {steps : List AlignStep} (h : ∃ x ∈ steps, isMatch x = false) :
    ∃ before x after e, steps = before ++ x :: after ∧ (∀ y ∈ before, isMatch y = true)
      ∧ firstErrorOf steps = some e ∧ errorOf x = some (e.kind, e.position) := by
  induction steps with
  | nil => obtain ⟨x, hx, -⟩ := h; cases hx
  | cons x xs ih =>
    cases x with
    | pair i j =>
      obtain ⟨y, hy, hmatch⟩ := h
      rcases List.mem_cons.mp hy with rfl | hy
      · cases hmatch
      obtain ⟨before, z, after, e, rfl, hbefore, hfirst, herror⟩ := ih ⟨y, hy, hmatch⟩
      exact ⟨.pair i j :: before, z, after, e, rfl, List.forall_mem_cons.mpr ⟨rfl, hbefore⟩, hfirst, herror⟩
    | _ => exact ⟨[], _, xs, _, rfl, nofun, rfl, rfl⟩

theorem firstErrorOf_none {steps : List AlignStep} (h : ∀ x ∈ steps, isMatch x = true) : firstErrorOf steps = none := by
  refine List.findSome?_eq_none_iff.mpr fun x hx => ?_
  have := h x hx
  cases x with
  | pair i j => rfl
  | _ => cases this

/-- The error of a step that was taken lies within the target, or right behind it (R83). -/
theorem errorOf_chosen {i j position : Nat} {kind : ErrorKind} {x : AlignStep} (h : ChosenAt entry target i j x)
    (herror : errorOf x = some (kind, position)) : 1 ≤ position ∧ position ≤ j + 1 := by
  rcases h with ⟨-, rfl⟩ | ⟨-, ⟨-, h2, -⟩, rfl⟩ | ⟨-, -, ⟨-, h2, -⟩, rfl⟩ | ⟨-, -, -, ⟨h2, -⟩, rfl⟩ | ⟨-, -, -, -, -, rfl⟩
  all_goals cases herror
  all_goals omega

theorem mem_matchedPlaces {steps : List AlignStep} {i : Nat} :
    i ∈ matchedPlaces steps ↔ ∃ j, AlignStep.pair i j ∈ steps := by
  rw [matchedPlaces, List.mem_filterMap]
  refine ⟨fun ⟨x, hx, hi⟩ => ?_, fun ⟨j, hj⟩ => ⟨_, hj, rfl⟩⟩
  cases x with
  | pair i' j => cases hi; exact ⟨j, hx⟩
  | _ => cases hi

theorem marksOf_length : (marksOf entry target).length = entry.length := by
  rw [marksOf, List.length_map, List.length_range]

theorem getElem?_marksOf {i : Nat} (h : i < entry.length) :
    (marksOf entry target)[i]? =
      some (if (matchedPlaces (alignment entry target)).contains (i + 1) then .right else .wrong) := by
  rw [marksOf, List.getElem?_map, List.getElem?_range h]
  rfl

theorem marksOf_right {i : Nat} (h : i < entry.length) (hpair : ∃ j, AlignStep.pair (i + 1) j ∈ alignment entry target) :
    (marksOf entry target)[i]? = some .right := by
  rw [getElem?_marksOf h, if_pos (List.contains_iff_mem.mpr (mem_matchedPlaces.mpr hpair))]

theorem marksOf_wrong {i : Nat} (h : i < entry.length) (hpair : ∀ j, AlignStep.pair (i + 1) j ∉ alignment entry target) :
    (marksOf entry target)[i]? = some .wrong := by
  rw [getElem?_marksOf h, if_neg fun hc => ?_]
  obtain ⟨j, hj⟩ := mem_matchedPlaces.mp (List.contains_iff_mem.mp hc)
  exact hpair j hj

theorem isMatch_of_eq (h : entry = target) : ∀ x ∈ alignment entry target, isMatch x = true := by
  have hcount := alignment_countP.trans (distance_eq_zero_iff.mpr h)
  intro x hx
  have := List.countP_eq_zero.mp hcount x hx
  simpa using this

theorem exists_noMatch_of_ne (h : entry ≠ target) : ∃ x ∈ alignment entry target, isMatch x = false := by
  have hcount : 0 < (alignment entry target).countP (fun x => !isMatch x) := by
    rw [alignment_countP]
    exact Nat.pos_of_ne_zero fun h0 => h (distance_eq_zero_iff.mp h0)
  obtain ⟨x, hx, hmatch⟩ := List.countP_pos_iff.mp hcount
  exact ⟨x, hx, by simpa using hmatch⟩

end Alignment

/-- Settles O60: the trace back takes at each cell the first step that holds, down to (0, 0). -/
theorem marksCoverTheLine : Obligations.MarksCoverTheLine := by
  intro entry target steps d marks
  refine ⟨alignment_leads, fun x hx i j hend => ?_, alignment_countP, fun heq => ?_, fun hne => ?_, marksOf_length,
    fun i hi => ⟨marksOf_right hi, marksOf_wrong hi⟩⟩
  · obtain ⟨i', j', -, -, hchosen⟩ := alignment_chosen x hx
    cases (chosen_step hchosen).1.symm.trans hend
    exact hchosen.imp_right (.imp_right (.imp_right (.imp_right fun ⟨hp, hs, hu, ho, ⟨h1, h⟩, hx⟩ =>
      ⟨hp, hs, hu, ho, h1, h, hx⟩)))
  · have hmatch := isMatch_of_eq heq
    refine ⟨firstErrorOf_none hmatch, fun m hm => ?_⟩
    obtain ⟨i, hi, rfl⟩ := List.getElem_of_mem hm
    have hlt : i < entry.length := marksOf_length (target := target) ▸ hi
    have hright := marksOf_right hlt (pair_mem_of_leads alignment_leads hmatch (Nat.zero_le i) hlt)
    exact Option.some.inj ((List.getElem?_eq_getElem hi).symm.trans hright)
  · obtain ⟨before, x, after, e, hsteps, hbefore, hfirst, herror⟩ := firstErrorOf_some (exists_noMatch_of_ne hne)
    obtain ⟨i, j, -, hj, hchosen⟩ := alignment_chosen x (hsteps ▸ List.mem_append_right _ List.mem_cons_self)
    obtain ⟨hlow, hhigh⟩ := errorOf_chosen hchosen herror
    exact ⟨before, x, after, e, hsteps, hbefore, hfirst, herror, hlow, Nat.le_trans hhigh (Nat.succ_le_succ hj)⟩

end Sys2Proof.Proofs.Judge
end

section
/-! PROOFS. The Display Port (R166 to R170). -/
namespace Sys2Proof.Proofs.Display
open Sys2Proof Sys2Proof.Machine Sys2Proof.Safety

theorem map_false {α : Type} (xs : List α) : (xs.map fun _ => false) = List.replicate xs.length false :=
  List.map_const' ..

/-- Settles O48: the first data byte decides over the pointer, the address over everything. -/
theorem pointerAndReadBegin : Obligations.PointerAndReadBegin := by
  refine ⟨fun x rest address s => ⟨fun h => ?_, fun h => ?_, rfl, fun h => ?_⟩, fun address s => ⟨rfl, fun h => ?_⟩⟩
  · have hread : readPointerByte x = some ⟨x.toNat, h⟩ := dif_pos h
    change Host.Outcome.next (writePointer Config.displayAddress (x :: rest) s) = _
    rw [writePointer, if_pos rfl]
    simp only [hread, map_false]
    rfl
  · have hread : readPointerByte x = none := dif_neg (Nat.not_lt_of_le h)
    change Host.Outcome.next (writePointer Config.displayAddress (x :: rest) s) = _
    rw [writePointer, if_pos rfl]
    simp only [hread, map_false]
    rfl
  · exact congrArg Host.Outcome.next (if_neg h)
  · exact congrArg Host.Outcome.next (if_neg h)

/-! ## The end of a read -/

theorem imageBytes_length (i : Image) : (imageBytes i).length = 26 := by
  rw [imageBytes, List.length_append, ReadSeat.symbolBytes_length]
  rfl

theorem snapshotBytes_length (p : Pair Image) : (snapshotBytes p).length = 52 := by
  rw [snapshotBytes, List.length_append, imageBytes_length, imageBytes_length]

theorem sentBytes_length (snapshot : Pair Image) (start sent : Nat) : (sentBytes snapshot start sent).length = sent := by
  rw [sentBytes, List.length_map, List.length_range]

/-- The bytes from the start on, round and round. -/
theorem getElem?_sentBytes (snapshot : Pair Image) (start : Nat) {i sent : Nat} (h : i < sent) :
    (sentBytes snapshot start sent)[i]? = (snapshotBytes snapshot)[(start + i) % 52]? := by
  have hlt : (start + i) % 52 < (snapshotBytes snapshot).length := by
    rw [snapshotBytes_length]
    exact Nat.mod_lt _ (by decide)
  rw [sentBytes, List.getElem?_map, List.getElem?_range h, List.getElem?_eq_getElem hlt]
  exact congrArg some (Lists.getD_of_lt hlt 0)

theorem wasSent_iff {start b : Nat} (hstart : start < 52) (hb : b < 52) (sent : Nat) :
    wasSent start sent b = true ↔ ∃ i, i < sent ∧ (start + i) % 52 = b := by
  rw [wasSent, decide_eq_true_iff]
  change (b + 52 - start) % 52 < sent ↔ _
  refine ⟨fun h => ⟨_, h, by omega⟩, fun ⟨i, hi, hmod⟩ => ?_⟩
  omega

theorem generationByte_lt (k : Seat) : generationByte k < 52 := by cases k <;> decide

theorem deliveredAfter_cases (k : Seat) {start : Nat} (hstart : start < 52) (sent : Nat) (m : Mirror) :
    ((∃ i, i < sent ∧ (start + i) % 52 = generationByte k) →
        deliveredAfter k start sent m = (m.snapshot.get k).generation)
      ∧ ((∀ i, i < sent → (start + i) % 52 ≠ generationByte k) →
        deliveredAfter k start sent m = m.delivered.get k) := by
  have hsent := wasSent_iff hstart (generationByte_lt k) sent
  refine ⟨fun h => if_pos (hsent.mpr h), fun h => if_neg fun hs => ?_⟩
  obtain ⟨i, hi, hmod⟩ := hsent.mp hs
  exact h i hi hmod

/-- What an abandoned read has sent: the snapshot before the reset, then all ones (R170). -/
theorem getElem?_abandoned (before : Pair Image) (start : Nat) (sent : ReadSent) {i : Nat} (h : i < sent.bytes) :
    (sentBytes before start (min sent.beforeReset sent.bytes)
        ++ List.replicate (sent.bytes - min sent.beforeReset sent.bytes) Config.filler)[i]? =
      if i < sent.beforeReset then (snapshotBytes before)[(start + i) % 52]? else some 255 := by
  by_cases hi : i < sent.beforeReset
  · have hlt : i < min sent.beforeReset sent.bytes := by omega
    rw [if_pos hi, List.getElem?_append_left (by rw [sentBytes_length]; exact hlt), getElem?_sentBytes _ _ hlt]
  · rw [if_neg hi, List.getElem?_append_right (by rw [sentBytes_length]; omega), sentBytes_length,
      List.getElem?_replicate, if_pos (by omega)]
    rfl

/-- Settles O49: by the state of the read. -/
theorem readEndDeliversTheGenerations : Obligations.ReadEndDeliversTheGenerations := by
  intro sent start s hl
  refine ⟨fun hread => ?_, fun before hread => ?_, fun hread => ?_⟩
  · have hend : exec (.displayReadEnd sent) s = .next (settlePins { s with mirror := { s.mirror with
        read := .none, sent := sentBytes s.mirror.snapshot start.val sent.bytes,
        delivered := { a := deliveredAfter .a start.val sent.bytes s.mirror,
                       b := deliveredAfter .b start.val sent.bytes s.mirror } } }) := by
      change Host.Outcome.next (endRead sent s) = _
      rw [endRead, hread]
    refine ⟨_, hend, rfl, sentBytes_length _ _ _, fun i hi => getElem?_sentBytes _ _ hi, fun k b hb => ?_⟩
    have hbyte : b = generationByte k := by cases k <;> exact hb
    subst hbyte
    cases k <;> exact deliveredAfter_cases _ start.isLt sent.bytes s.mirror
  · refine ⟨_, ?_, fun i hi => getElem?_abandoned before start.val sent hi, ?_⟩
    · rw [List.length_append, sentBytes_length, List.length_replicate]
      omega
    · change Host.Outcome.next (endRead sent s) = _
      rw [endRead, hread]
  · change Host.Outcome.next (endRead sent s) = _
    rw [endRead, hread]

end Sys2Proof.Proofs.Display
end

section
/-! PROOFS. A tick in a quiet part (R1). -/
namespace Sys2Proof.Proofs.Tick
open Sys2Proof Sys2Proof.Machine Sys2Proof.Safety

/-! ## Timers that are not due -/

theorem fireRepeat_of_none {m : Seat} {s : State} (h : (s.matrix m).repeating = none) : fireRepeat m s = s := by
  simp only [fireRepeat, h]

theorem fireIdle_of_not_due {k : Seat} {s : State} (h : (s.seat k).idleTimer ≠ some 0) : fireIdle k s = s :=
  if_neg fun hdue => h hdue.1

theorem fireResponse_of_not_due {first : Bool} {s : State} (h : s.link.responseTimer ≠ some 0) :
    fireResponse first s = s := by
  unfold fireResponse
  split
  case h_1 htimer => exact absurd htimer h
  case h_2 => rfl

theorem fireAged_of_empty {s : State} (h : s.reports.queue = []) : fireAged s = s := by
  have hage : agedHolds s = false := by rw [agedHolds, headAge, h]; rfl
  rw [fireAged, hage]
  rfl

/-- With no timer due, what is overdue comes to nothing. -/
theorem fireEach_overdue {s : State} (hl : LinesFollow s) (hrepeat : ∀ m, (s.matrix m).repeating = none)
    (hidle : ∀ k, (s.seat k).idleTimer ≠ some 0) (hresponse : s.link.responseTimer ≠ some 0)
    (hreports : s.reports.queue = []) : fireEach overdueOrder s = s := by
  simp only [fireEach, overdueOrder, List.foldl_cons, List.foldl_nil, fire, fireRepeat_of_none (hrepeat _),
    fireIdle_of_not_due (hidle _), fireResponse_of_not_due hresponse, fireAged_of_empty hreports, settle_eq_self hl]

/-! ## The clock -/

theorem countRepeat_of_none {x : MatrixState} (h : x.repeating = none) : countRepeat x = x := by
  simp only [countRepeat, h]

theorem countSeat_eq (c : SeatContext) : countSeat c = afterMillisecond c := by
  have hruns : countsEntryTime c.state = true ↔ c.state = .present ∨ c.state = .entry ∨ c.state = .review .retry := by
    rcases c.state with _ | _ | _ | _ | phase | ⟨r, point⟩
    · decide
    · decide
    · decide
    · decide
    · cases phase <;> decide
    · simp [countsEntryTime]
  simp only [countSeat, afterMillisecond, hruns, countDown]

theorem advanceClock_eq {s : State} (hrepeat : ∀ m, (s.matrix m).repeating = none) :
    advanceClock s = millisecondLater s := by
  have ha := countRepeat_of_none (hrepeat .a)
  have hb := countRepeat_of_none (hrepeat .b)
  simp only [State.matrix, Pair.get] at ha hb
  simp only [advanceClock, millisecondLater, ha, hb, countSeat_eq, countDown]

theorem seat_millisecondLater (k : Seat) (s : State) : (millisecondLater s).seat k = afterMillisecond (s.seat k) := by
  cases k <;> rfl

/-- A millisecond moves no line: a timer that runs goes on running. -/
theorem linesFollow_millisecondLater {s : State} (h : LinesFollow s) : LinesFollow (millisecondLater s) := by
  obtain ⟨hpins, hidle⟩ := (linesFollow_iff s).mp h
  refine (linesFollow_iff _).mpr ⟨hpins, fun k => ?_⟩
  have hruns : idleTimerRuns k (millisecondLater s) = idleTimerRuns k s :=
    idleTimerRuns_congr (by rw [seat_millisecondLater]; rfl) (by rw [seat_millisecondLater]; rfl) rfl
  rw [hruns, ← hidle k, seat_millisecondLater, afterMillisecond, Option.isSome_map]

/-! ## Passes over keys that are up -/

theorem setMatrix_matrix (m : Seat) (s : State) : s.setMatrix m (s.matrix m) = s := by cases m <;> rfl

/-- A key that is up and not read pressed stays up, with no repeat to end. -/
theorem scanPosition_of_up {m : Seat} {readings : BitVec 64} {p : Nat} {s : State}
    (hup : (s.matrix m).keys.toList.getD p .up = .up) (hnone : (s.matrix m).repeating = none)
    (hread : readings.getLsbD p = false) : scanPosition m readings p s = s := by
  unfold scanPosition
  split
  case isFalse => rfl
  case isTrue hp =>
    have hlength : p < (s.matrix m).keys.toList.length := by rw [Vector.length_toList]; exact hp
    have hkey : (s.matrix m).keys[p] = .up := by
      rw [Lists.getD_of_lt hlength _] at hup
      rwa [Vector.getElem_toList] at hup
    have hset : (s.matrix m).keys.set p .up = (s.matrix m).keys := by
      conv => lhs; rw [← hkey]
      exact Vector.set_getElem_self _
    simp only [scanKey, hkey, hread, readKey, repeatAfter, hnone, hset, Bool.false_eq_true, if_false]
    rw [show ({ s.matrix m with repeating := none } : MatrixState) = s.matrix m by rw [← hnone]]
    exact setMatrix_matrix m s

theorem scanRest_of_up {m : Seat} {readings : BitVec 64} {s : State}
    (hup : ∀ p, (s.matrix m).keys.toList.getD p .up = .up) (hnone : (s.matrix m).repeating = none)
    (hread : ∀ p, readings.getLsbD p = false) (p : Nat) : scanRest m readings p s = s := by
  unfold scanRest
  generalize (List.range Config.keyCount).drop p = positions
  induction positions with
  | nil => rfl
  | cons q rest ih => rw [List.foldl_cons, scanPosition_of_up (hup q) hnone (hread q), ih]

theorem endPass_of_normal {m : Seat} {s : State} (h : (s.matrix m).condition = .normal) : endPass m s = s :=
  if_neg fun hmashed => by rw [h] at hmashed; cases hmashed.1

theorem scanPasses_of_up {readA readB : BitVec 64} {s : State}
    (hup : ∀ m p, (s.matrix m).keys.toList.getD p .up = .up)
    (hnormal : ∀ m, (s.matrix m).condition = .normal ∧ (s.matrix m).repeating = none)
    (hread : ∀ p, readA.getLsbD p = false ∧ readB.getLsbD p = false) (order : List Seat) (p q : Nat) :
    scanPasses readA readB order p q s = s := by
  induction order generalizing p q with
  | nil =>
    rw [scanPasses, scanRest_of_up (hup .a) (hnormal .a).2 fun i => (hread i).1,
      scanRest_of_up (hup .b) (hnormal .b).2 fun i => (hread i).2, endPass_of_normal (hnormal .a).1,
      endPass_of_normal (hnormal .b).1]
  | cons m order ih =>
    cases m with
    | a => rw [scanPasses, scanPosition_of_up (hup .a p) (hnormal .a).2 (hread p).1, ih]
    | b => rw [scanPasses, scanPosition_of_up (hup .b q) (hnormal .b).2 (hread q).2, ih]

/-- Settles O50: nothing is due, so the clock moves; no key is down, so the passes leave the state. -/
theorem quietTickMovesTheClock : Obligations.QuietTickMovesTheClock := by
  intro order s hl hq
  have hrepeat : ∀ m, (s.matrix m).repeating = none := fun m => (hq.normal m).2
  have hscan : scanPasses 0 0 order 0 0 (millisecondLater s) = millisecondLater s :=
    scanPasses_of_up (s := millisecondLater s) hq.keys hq.normal (fun p => ⟨BitVec.getLsbD_zero, BitVec.getLsbD_zero⟩) order 0 0
  change Host.Outcome.next (settle (scanPasses 0 0 order 0 0 (fireEach [] (advanceClock (fireEach overdueOrder s))))) = _
  rw [fireEach_overdue hl hrepeat hq.idle hq.response hq.reports, advanceClock_eq hrepeat]
  change Host.Outcome.next (settle (scanPasses 0 0 order 0 0 (millisecondLater s))) = _
  rw [hscan, settle_eq_self (linesFollow_millisecondLater hl)]

end Sys2Proof.Proofs.Tick
end

section
/-! PROOFS. What `settle` leaves at the end of an event of the speech link. -/
namespace Sys2Proof.Proofs.Link
open Sys2Proof Sys2Proof.Machine Sys2Proof.Safety Sys2Proof.Proofs.Reports

/-- The timer's condition reads of the lanes only whom they name. -/
theorem idleTimerRuns_of_names {s t : State} (k : Seat) (hs : t.seats = s.seats)
    (hl : ∀ i, (t.lane i).map (·.seat) = (s.lane i).map (·.seat)) : idleTimerRuns k t = idleTimerRuns k s := by
  have hseat : t.seat k = s.seat k := by rw [State.seat, hs]; rfl
  have hnames : (t.lane (.prompt k) ++ t.lane (.echo k)).map (·.seat)
      = (s.lane (.prompt k) ++ s.lane (.echo k)).map (·.seat) := by
    rw [List.map_append, List.map_append, hl, hl]
  rw [Bool.eq_iff_iff, idleTimerRuns_iff, idleTimerRuns_iff, hseat]
  refine and_congr_right fun _ => and_congr_right fun _ => ?_
  rw [← List.forall_mem_map (f := SpeechEntry.seat) (P := fun j => j ≠ some k), hnames,
    List.forall_mem_map (f := SpeechEntry.seat)]

/-- `settle` after no seat, and no lane's named seats, have changed: the lines alone. -/
theorem settle_of_names {s x : State} (h : LinesFollow s) (hs : x.seats = s.seats)
    (hl : ∀ i, (x.lane i).map (·.seat) = (s.lane i).map (·.seat)) : settle x = { x with pins := pinLevels x } := by
  refine settle_eq_pins fun k => ?_
  rw [idleTimerRuns_of_names k hs hl, ← ((linesFollow_iff s).mp h).2 k, State.seat, hs]
  rfl

/-- A link update that keeps the utterance in flight moves no line. -/
theorem settle_link {s : State} (h : LinesFollow s) {l : Link} (hl : l.inFlight = s.link.inFlight) :
    settle { s with link := l } = { s with link := l } :=
  settle_eq_self (linesFollow_congr h rfl rfl hl rfl rfl rfl)

/-- A link update that keeps an utterance in flight on the same lane moves no line. -/
theorem settle_link_of_lane {s : State} {u u' : Utterance} {l : Link} (h : LinesFollow s)
    (hu : s.link.inFlight = some u) (hu' : l.inFlight = some u') (hlane : u'.lane = u.lane) :
    settle { s with link := l } = { s with link := l } := by
  have hsrq : srqLevel { s with link := l } = srqLevel s := by
    simp only [srqLevel, inFlightEntry, hu, hu', State.lane, hlane]
  have hlevels : pinLevels { s with link := l } = pinLevels s := by
    simp only [pinLevels, hsrq]
    rfl
  have hpins := hlevels.trans ((linesFollow_iff s).mp h).1.symm
  exact (settle_none (x := { s with link := l }) h rfl rfl).trans (by rw [hpins])

/-! ## FETCH as one of three -/

/-- The state in which an accepted FETCH is served. -/
def accepted (flags : Byte) (s : State) : State :=
  { s with link := { s.link with fetched := true, sequence := some (flags.getLsbD 0) } }

/-- The reply has been remembered and is sent. -/
def answered (r : FetchReply × State) : State :=
  { r.2 with link := { r.2.link with lastReply := r.1, reply := fetchReplyBytes r.1 } }

theorem exec_fetch_of_duplicate {flags : Byte} {s : State} (hfresh : flags.getLsbD 1 = false)
    (hsequence : s.link.sequence = some (flags.getLsbD 0)) : exec (.fetch flags) s = .next (settle (repeatReply s)) := by
  have hduplicate : isDuplicate flags s = true := by rw [isDuplicate, hfresh, decide_eq_true hsequence]; rfl
  exact congrArg (fun t => Host.Outcome.next (settle t)) (if_pos hduplicate)

theorem isDuplicate_eq_false {flags : Byte} {s : State}
    (h : flags.getLsbD 1 = true ∨ s.link.sequence ≠ some (flags.getLsbD 0)) : isDuplicate flags s = false := by
  rcases h with h | h
  · rw [isDuplicate, h]; rfl
  · rw [isDuplicate, decide_eq_false h, Bool.and_false]

theorem exec_fetch_of_new {flags : Byte} {s : State}
    (h : flags.getLsbD 1 = true ∨ s.link.sequence ≠ some (flags.getLsbD 0)) :
    exec (.fetch flags) s = .next (settle (acceptFetch flags s)) :=
  congrArg (fun t => Host.Outcome.next (settle t)) (if_neg (by rw [isDuplicate_eq_false h]; exact Bool.false_ne_true))

theorem acceptFetch_of_stale {flags : Byte} (h : flags.getLsbD 1 = false) (s : State) :
    acceptFetch flags s = answered (serveFetch (accepted flags s)) := by
  simp only [acceptFetch, h]
  rfl

theorem acceptFetch_of_fresh {flags : Byte} (h : flags.getLsbD 1 = true) (s : State) :
    acceptFetch flags s = answered (serveFetch (accepted flags (complete .lost s))) := by
  simp only [acceptFetch, h]
  rfl

theorem complete_of_idle {s : State} (h : s.link.inFlight = none) (o : SpeechOutcome) : complete o s = s := by
  simp only [complete, h]

/-- With nothing in flight the fresh flag makes no difference to an accepted FETCH (R134). -/
theorem exec_fetch_of_idle {flags : Byte} {s : State} (hidle : s.link.inFlight = none)
    (h : flags.getLsbD 1 = true ∨ s.link.sequence ≠ some (flags.getLsbD 0)) :
    exec (.fetch flags) s = .next (settle (answered (serveFetch (accepted flags s)))) := by
  rw [exec_fetch_of_new h]
  cases hfresh : flags.getLsbD 1 with
  | false => rw [acceptFetch_of_stale hfresh]
  | true => rw [acceptFetch_of_fresh hfresh, complete_of_idle hidle]

theorem serveFetch_of_arbiter {s : State} {i : LaneId} (hidle : s.link.inFlight = none) (h : arbiterLane s = some i) :
    serveFetch s = startUtterance i s := by
  simp only [serveFetch, hidle, h]

theorem arbiterLane_of_no_offer {s : State} (h : ∀ i, ¬ Offers s i) : arbiterLane s = none := by
  have hlane : ∀ i, laneOffers i s = false := fun i => Bool.eq_false_iff.mpr fun ho => h i ((laneOffers_iff i s).mp ho)
  simp only [arbiterLane, seatOffers, hlane, Bool.or_self, Bool.false_eq_true, if_false]

theorem serveFetch_of_no_offer {s : State} (hidle : s.link.inFlight = none) (h : ∀ i, ¬ Offers s i) :
    serveFetch s = (.idle, s) := by
  simp only [serveFetch, hidle, arbiterLane_of_no_offer h]

theorem serveFetch_of_inFlight {s : State} {u : Utterance} {e : SpeechEntry} {rest : List SpeechEntry}
    (hu : s.link.inFlight = some u) (hlane : s.lane u.lane = e :: rest) :
    serveFetch s = if e.state = .streaming then streamItem u e s else (.idle, s) := by
  simp only [serveFetch, inFlightEntry, hu, hlane, List.head?_cons]

theorem offers_accepted (flags : Byte) (s : State) (i : LaneId) : Offers (accepted flags s) i ↔ Offers s i := by
  cases i <;> rfl

/-- Settles O43: an utterance that drains gives IDLE. -/
theorem fetchWhileDrainingIsIdle : Obligations.FetchWhileDrainingIsIdle := by
  intro flags u e rest s hl hu hlane hdraining hfresh hsequence
  have hserve : serveFetch (accepted flags s) = (.idle, accepted flags s) :=
    (serveFetch_of_inFlight (s := accepted flags s) hu hlane).trans (if_neg (by rw [hdraining]; nofun))
  rw [exec_fetch_of_new (.inr hsequence), acceptFetch_of_stale hfresh, hserve]
  exact congrArg Host.Outcome.next (settle_link hl rfl)

/-! ## Starting an utterance -/

theorem not_laneOffers {s : State} {i : LaneId} (h : ¬ Offers s i) : laneOffers i s = false :=
  Bool.eq_false_iff.mpr fun ho => h ((laneOffers_iff i s).mp ho)

theorem arbiterLane_of_system {s : State} (h : Offers s .system) : arbiterLane s = some .system :=
  if_pos ((laneOffers_iff .system s).mpr h)

theorem seatLane_of_offers {s : State} {k : Seat} {i : LaneId} (h : Offers s i)
    (hi : i = .echo k ∨ (i = .prompt k ∧ ¬ Offers s (.echo k))) : seatLane k s = i := by
  rcases hi with rfl | ⟨rfl, hecho⟩
  · exact if_pos ((laneOffers_iff _ s).mpr h)
  · exact if_neg (by rw [not_laneOffers hecho]; exact Bool.false_ne_true)

theorem seatOffers_of_offers {s : State} {k : Seat} {i : LaneId} (h : Offers s i)
    (hi : i = .echo k ∨ (i = .prompt k ∧ ¬ Offers s (.echo k))) : seatOffers k s = true := by
  rw [seatOffers_iff]
  rcases hi with rfl | ⟨rfl, -⟩
  · exact .inl h
  · exact .inr h

/-- The arbiter takes the seat's lane when the seat is pointed at, or the other one has nothing to say (R136). -/
theorem arbiterLane_of_seat {s : State} {k : Seat} {i : LaneId} (h : Offers s i) (hsystem : ¬ Offers s .system)
    (hturn : s.link.pointer = k ∨ (¬ Offers s (.echo (otherSeat k)) ∧ ¬ Offers s (.prompt (otherSeat k))))
    (hi : i = .echo k ∨ (i = .prompt k ∧ ¬ Offers s (.echo k))) : arbiterLane s = some i := by
  have hlane := seatLane_of_offers h hi
  have hoffers := seatOffers_of_offers h hi
  simp only [arbiterLane, not_laneOffers hsystem, Bool.false_eq_true, if_false]
  by_cases hpointer : s.link.pointer = k
  · rw [hpointer, if_pos hoffers, hlane]
  · have hother : s.link.pointer = otherSeat k := by
      cases k <;> cases hp : s.link.pointer <;> simp_all [otherSeat]
    obtain ⟨hecho, hprompt⟩ := hturn.resolve_left hpointer
    have hsilent : seatOffers (otherSeat k) s = false := by
      rw [seatOffers, not_laneOffers hecho, not_laneOffers hprompt]; rfl
    rw [hother, hsilent, otherSeat_otherSeat, if_neg Bool.false_ne_true, if_pos hoffers, hlane]

/-- A head that changes keeps the seats named in every lane. -/
theorem names_set_head {s : State} {i : LaneId} {e e' : SpeechEntry} {rest : List SpeechEntry}
    (hlane : s.lane i = e :: rest) (hseat : e'.seat = e.seat) (j : LaneId) :
    ((s.setLane i (e' :: rest)).lane j).map (·.seat) = (s.lane j).map (·.seat) := by
  rw [State.lane_setLane]
  split
  case isTrue h => rw [h, hlane, List.map_cons, List.map_cons, hseat]
  case isFalse => rfl

/-- A FETCH that starts the head of the arbiter's lane (R135, R136, R137). -/
theorem fetch_starts {flags : Byte} {i : LaneId} {e : SpeechEntry} {rest : List SpeechEntry} {s : State}
    {channel : Channel} {pointer : Seat} (hl : LinesFollow s) (hidle : s.link.inFlight = none)
    (hnew : flags.getLsbD 1 = true ∨ s.link.sequence ≠ some (flags.getLsbD 0)) (harbiter : arbiterLane s = some i)
    (hlane : s.lane i = e :: rest) (hchannel : startChannel e s = channel)
    (hpointer : (match e.seat with | some k => otherSeat k | none => s.link.pointer) = pointer) :
    ∃ t, exec (.fetch flags) s = .next t
      ∧ t = { s with
        lanes := s.lanes.set i ({ e with state := .streaming, channel := some channel } :: rest),
        link :=
          { s.link with
            inFlight := some { lane := i, serial := s.link.serial, position := 1, expansion := none },
            sequence := some (flags.getLsbD 0), lastReply := .start s.link.serial channel, fetched := true,
            serial := s.link.serial + 1, pointer := pointer, responseTimer := some s.link.tResp.toNat,
            reply := [1, s.link.serial, channelCode channel, 0] },
        pins := t.pins } := by
  subst hchannel hpointer
  have hserve : serveFetch (accepted flags s) = startUtterance i (accepted flags s) :=
    serveFetch_of_arbiter (s := accepted flags s) hidle harbiter
  have hlane' : (accepted flags s).lane i = e :: rest := hlane
  have hsettle := fun l => settle_of_names (s := s)
    (x := { s.setLane i ({ e with state := .streaming, channel := some (startChannel e s) } :: rest) with link := l })
    hl rfl (names_set_head (e' := { e with state := .streaming, channel := some (startChannel e s) }) hlane rfl)
  rw [exec_fetch_of_idle hidle hnew, hserve, startUtterance, hlane']
  exact ⟨_, congrArg Host.Outcome.next (hsettle _), rfl⟩

/-- Settles O41: the arbiter's lane, then the start of its head. -/
theorem fetchStartsThePointedSeat : Obligations.FetchStartsThePointedSeat := by
  intro flags i e rest s hl hidle hnew hoffers hlane
  refine ⟨fun channel hi hseat hchannel => ?_, fun k hsystem hturn hi hseat => ?_⟩
  · subst hi
    refine fetch_starts hl hidle hnew (arbiterLane_of_system hoffers) hlane ?_ ?_
    · rw [startChannel, hseat, hchannel]; rfl
    · rw [hseat]
  · refine fetch_starts hl hidle hnew (arbiterLane_of_seat hoffers hsystem hturn hi) hlane ?_ ?_
    · simp only [startChannel, hseat, SeatContext.outOfOff]
      by_cases hoff : (s.seat (otherSeat k)).state = .off
      · simp [hoff]
      · cases k <;> simp [hoff]
    · rw [hseat]

/-! ## Streaming -/

theorem srqLevel_of_draining {s : State} {u : Utterance} {e : SpeechEntry} {rest : List SpeechEntry}
    (hu : s.link.inFlight = some u) (hlane : s.lane u.lane = e :: rest) (he : e.state = .draining) :
    srqLevel s = false := by
  simp only [srqLevel, inFlightEntry, hu, hlane, List.head?_cons, he]
  rfl

section Streaming
variable {flags : Byte} {u : Utterance} {e : SpeechEntry} {rest : List SpeechEntry} {s : State}
variable (hu : s.link.inFlight = some u) (hlane : s.lane u.lane = e :: rest)
variable (hstreaming : e.state = .streaming) (hfresh : flags.getLsbD 1 = false)
variable (hsequence : s.link.sequence ≠ some (flags.getLsbD 0))
include hu hlane hstreaming hfresh hsequence

theorem exec_fetch_of_streaming :
    exec (.fetch flags) s = .next (settle (answered (streamItem u e (accepted flags s)))) := by
  have hserve : serveFetch (accepted flags s) = streamItem u e (accepted flags s) :=
    (serveFetch_of_inFlight (s := accepted flags s) hu hlane).trans (if_pos hstreaming)
  rw [exec_fetch_of_new (.inr hsequence), acceptFetch_of_stale hfresh, hserve]

theorem fetch_gives {u' : Utterance} {item : Item} (hl : LinesFollow s) (hu' : u'.lane = u.lane ∧ u'.serial = u.serial)
    (h : streamItem u e (accepted flags s) = streamTo u' (.item item u.serial) (accepted flags s)) :
    exec (.fetch flags) s = .next { s with link := linkItem flags u' item s } := by
  rw [exec_fetch_of_streaming hu hlane hstreaming hfresh hsequence, h, ← hu'.2]
  exact congrArg Host.Outcome.next (settle_link_of_lane (s := s) (l := linkItem flags u' item s) hl hu rfl hu'.1)

theorem fetch_ends {u' : Utterance} {cut : Bool} (hl : LinesFollow s) (hu' : u'.lane = u.lane ∧ u'.serial = u.serial)
    (h : streamItem u e (accepted flags s) = endUtterance u' e cut (accepted flags s)) :
    ∃ t, exec (.fetch flags) s = .next t
      ∧ t = { s with
          lanes := s.lanes.set u.lane ({ e with state := .draining } :: rest),
          link :=
            { s.link with
              inFlight := some u', sequence := some (flags.getLsbD 0), lastReply := .ended cut u.serial,
              fetched := true, responseTimer := some s.link.tResp.toNat, reply := [3, flagByte cut, 0, u.serial] },
          pins := t.pins }
      ∧ t.pins.srq = false := by
  have hset : setInFlightEntry { e with state := .draining } (accepted flags s)
      = (accepted flags s).setLane u.lane ({ e with state := .draining } :: rest) := by
    have hu1 : (accepted flags s).link.inFlight = some u := hu
    have hlane1 : (accepted flags s).lane u.lane = e :: rest := hlane
    simp only [setInFlightEntry, hu1, hlane1, List.tail_cons]
  have hsettle := fun l => settle_of_names (s := s)
    (x := { s.setLane u.lane ({ e with state := .draining } :: rest) with link := l })
    hl rfl (names_set_head (e' := { e with state := .draining }) hlane rfl)
  rw [exec_fetch_of_streaming hu hlane hstreaming hfresh hsequence, h, endUtterance, hset, ← hu'.2]
  refine ⟨_, congrArg Host.Outcome.next (hsettle _), rfl, ?_⟩
  have hhead := State.lane_setLane_self s u.lane ({ e with state := .draining } :: rest)
  rw [← hu'.1] at hhead ⊢
  exact srqLevel_of_draining (u := u') (e := { e with state := .draining }) (rest := rest)
    (s := answered (streamTo u' (.ended cut u'.serial)
      ((accepted flags s).setLane u'.lane ({ e with state := .draining } :: rest)))) rfl hhead rfl

end Streaming

theorem expansionItem_of_finished {x : Expansion} (h : 2 * x.letters.length ≤ x.place + 1) : expansionItem x = none :=
  (Judge.expansionSpellsTheLetters x.letters).2.2 x.place h

/-- No expansion gives the next item. -/
theorem expansion_finished {u : Utterance}
    (h : u.expansion = none ∨ ∃ x, u.expansion = some x ∧ 2 * x.letters.length ≤ x.place + 1) :
    (u.expansion.bind fun x => (expansionItem x).map fun item => (item, x)) = none := by
  rcases h with h | ⟨x, h, hdone⟩
  · rw [h]; rfl
  · rw [h, Option.bind_some, expansionItem_of_finished hdone]; rfl

/-- Past the expansion: the next item of the entry itself. -/
theorem streamItem_next {u : Utterance} {e : SpeechEntry} {s : State} {item : Item} {position : Nat}
    {expansion : Option Expansion} (hcut : e.cutPending = false)
    (hdone : u.expansion = none ∨ ∃ x, u.expansion = some x ∧ 2 * x.letters.length ≤ x.place + 1)
    (h : nextItem e s (entryItemCount e s + 1) u.position = some (item, position, expansion)) :
    streamItem u e s = streamTo { u with position := position, expansion := expansion } (.item item u.serial) s := by
  simp only [streamItem, hcut, expansion_finished hdone, h, Bool.false_eq_true, if_false]

/-- Nothing is left of the entry. -/
theorem streamItem_end {u : Utterance} {e : SpeechEntry} {s : State} (hcut : e.cutPending = false)
    (hdone : u.expansion = none ∨ ∃ x, u.expansion = some x ∧ 2 * x.letters.length ≤ x.place + 1)
    (hposition : u.position = entryItemCount e s + 1) :
    streamItem u e s = endUtterance { u with expansion := none } e false s := by
  have h : nextItem e s (entryItemCount e s + 1) u.position = none := by
    rw [nextItem, hposition, if_pos (Nat.lt_succ_self _)]
  simp only [streamItem, hcut, expansion_finished hdone, h, Bool.false_eq_true, if_false]
  rw [← hposition]

theorem streamItem_expansion {u : Utterance} {e : SpeechEntry} {s : State} {x : Expansion} {item : Item}
    (hcut : e.cutPending = false) (hx : u.expansion = some x) (h : expansionItem x = some item) :
    streamItem u e s
      = streamTo { u with expansion := some { x with place := x.place + 1 } } (.item item u.serial) s := by
  simp only [streamItem, hcut, hx, h, Option.bind_some, Option.map_some, Bool.false_eq_true, if_false]

/-- The first item from a position on that is not passed over. -/
theorem nextItem_plain {e : SpeechEntry} {s : State} {position : Nat} {item : Item} {more : Nat}
    (hposition : position ≤ entryItemCount e s) (hitem : entryItem e position s = some item)
    (hplain : item ≠ .spellTarget ∧ item ≠ .spellEntry) :
    nextItem e s (more + 1) position = some (item, position + 1, none) := by
  have hspell : spellLetters e item s = none := by
    cases item with
    | spellTarget => exact absurd rfl hplain.1
    | spellEntry => exact absurd rfl hplain.2
    | letter _ | sound _ | pause _ | cue _ => rfl
  simp only [nextItem, if_neg (Nat.not_lt_of_le hposition), hitem, hspell]

theorem nextItem_spells {e : SpeechEntry} {s : State} {position : Nat} {item : Item} {more : Nat} {c : Byte}
    {cs : List Byte} (hposition : position ≤ entryItemCount e s) (hitem : entryItem e position s = some item)
    (hspell : spellLetters e item s = some (c :: cs)) :
    nextItem e s (more + 1) position = some (.letter c, position + 1, some { letters := c :: cs, place := 1 }) := by
  simp only [nextItem, if_neg (Nat.not_lt_of_le hposition), hitem, hspell]

theorem nextItem_silent {e : SpeechEntry} {s : State} {position : Nat} {item : Item} {more : Nat}
    (hposition : position ≤ entryItemCount e s) (hitem : entryItem e position s = some item)
    (hspell : spellLetters e item s = some []) :
    nextItem e s (more + 1) position = nextItem e s more (position + 1) := by
  rw [nextItem]
  simp only [if_neg (Nat.not_lt_of_le hposition), hitem, hspell]

theorem spellLetters_seat {e : SpeechEntry} {s : State} {k : Seat} {item : Item} {letters : List Byte}
    (hseat : e.seat = some k)
    (h : (item = .spellTarget ∧ letters = s.target k) ∨ (item = .spellEntry ∧ letters = (s.seat k).line.map (·.letter))) :
    spellLetters e item s = some letters := by
  rcases h with ⟨rfl, rfl⟩ | ⟨rfl, rfl⟩
  · simp only [spellLetters, hseat]
  · simp only [spellLetters, hseat]; rfl

theorem spellLetters_none {e : SpeechEntry} {s : State} {item : Item} (hseat : e.seat = none)
    (h : item = .spellTarget ∨ item = .spellEntry) : spellLetters e item s = some [] := by
  rcases h with rfl | rfl <;> simp only [spellLetters, hseat]

/-- Settles O42: what the next item is, by the content of the entry, and what the link makes of it. -/
theorem fetchStreamsItemsAndEnds : Obligations.FetchStreamsItemsAndEnds := by
  intro flags u e rest s hl hu hlane hstreaming hfresh hsequence gives ends finished spells plain
  have hgives : ∀ item u', u'.lane = u.lane ∧ u'.serial = u.serial →
      streamItem u e (accepted flags s) = streamTo u' (.item item u.serial) (accepted flags s) → gives item u' :=
    fun _ _ hu' h => fetch_gives hu hlane hstreaming hfresh hsequence hl hu' h
  have hends : ∀ cut u', u'.lane = u.lane ∧ u'.serial = u.serial →
      streamItem u e (accepted flags s) = endUtterance u' e cut (accepted flags s) → ends cut u' :=
    fun _ _ hu' h => fetch_ends hu hlane hstreaming hfresh hsequence hl hu' h
  refine ⟨fun hcut => hends _ _ ⟨rfl, rfl⟩ (if_pos hcut), fun hcut => ⟨fun c hc hdone => ?_, fun c hc hdone => ?_,
    fun x item hx hitem => hgives _ _ ⟨rfl, rfl⟩ (streamItem_expansion hcut hx hitem), fun h hh hdone => ?_⟩⟩
  · have hcount : entryItemCount e (accepted flags s) = 1 := by rw [entryItemCount, hc]
    have hitem : ∀ n, entryItem e n (accepted flags s) = some (.letter c) := fun n => by rw [entryItem, hc]
    refine ⟨fun hposition => hgives _ _ ⟨rfl, rfl⟩ (streamItem_next hcut hdone ?_),
      fun hposition => hends _ _ ⟨rfl, rfl⟩ (streamItem_end hcut hdone (by rw [hcount, hposition]))⟩
    rw [hposition]
    exact nextItem_plain (Nat.le_of_eq hcount.symm) (hitem 1) ⟨nofun, nofun⟩
  · have hcount : entryItemCount e (accepted flags s) = 1 := by rw [entryItemCount, hc]
    have hitem : ∀ n, entryItem e n (accepted flags s) = some (.cue c) := fun n => by rw [entryItem, hc]
    refine ⟨fun hposition => hgives _ _ ⟨rfl, rfl⟩ (streamItem_next hcut hdone ?_),
      fun hposition => hends _ _ ⟨rfl, rfl⟩ (streamItem_end hcut hdone (by rw [hcount, hposition]))⟩
    rw [hposition]
    exact nextItem_plain (Nat.le_of_eq hcount.symm) (hitem 1) ⟨nofun, nofun⟩
  · have hcount : entryItemCount e (accepted flags s) = (s.handle h).itemCount := by rw [entryItemCount, hh]; rfl
    have hentry : ∀ n, entryItem e n (accepted flags s) = phraseItem h n s := fun n => by rw [entryItem, hh]; rfl
    refine ⟨fun item hposition hitem => ⟨fun hplain => ?_, fun k c cs hseat hspells => ?_,
      fun next hspell hsilent hroom hnext hplain => ?_⟩,
      fun hposition => hends _ _ ⟨rfl, rfl⟩ (streamItem_end hcut hdone (by rw [hcount, hposition]))⟩
    · exact hgives _ _ ⟨rfl, rfl⟩ (streamItem_next hcut hdone
        (nextItem_plain (by rw [hcount]; exact hposition) ((hentry _).trans hitem) hplain))
    · exact hgives _ _ ⟨rfl, rfl⟩ (streamItem_next hcut hdone
        (nextItem_spells (by rw [hcount]; exact hposition) ((hentry _).trans hitem)
          (spellLetters_seat (s := accepted flags s) hseat hspells)))
    · have hempty : spellLetters e item (accepted flags s) = some [] := by
        rcases hsilent with hseat | ⟨k, hseat, hspells⟩
        · exact spellLetters_none hseat hspell
        · exact spellLetters_seat (s := accepted flags s) hseat hspells
      obtain ⟨more, hmore⟩ : ∃ more, entryItemCount e (accepted flags s) = more + 1 :=
        Nat.exists_eq_add_of_le' (by rw [hcount]; omega)
      have hskip := nextItem_silent (more := entryItemCount e (accepted flags s)) (by rw [hcount]; exact hposition)
        ((hentry _).trans hitem) hempty
      refine hgives _ _ ⟨rfl, rfl⟩ (streamItem_next hcut hdone (hskip.trans ?_))
      rw [hmore]
      exact nextItem_plain (by rw [hcount]; exact hroom) ((hentry _).trans hnext) hplain

/-! ## Requests that are answered STALE -/

theorem readDoneOutcome_some {x : Byte} (hlow : 1 ≤ x.toNat) (hhigh : x.toNat ≤ 3) : ∃ o, readDoneOutcome x = some o := by
  unfold readDoneOutcome
  have hcases : x.toNat = 1 ∨ x.toNat = 2 ∨ x.toNat = 3 := by omega
  rcases hcases with h | h | h
  · obtain rfl : x = 1 := BitVec.eq_of_toNat_eq h
    exact ⟨_, rfl⟩
  · obtain rfl : x = 2 := BitVec.eq_of_toNat_eq h
    exact ⟨_, rfl⟩
  · obtain rfl : x = 3 := BitVec.eq_of_toNat_eq h
    exact ⟨_, rfl⟩

theorem readDoneOutcome_none {x : Byte} (h : x = 0 ∨ 4 ≤ x.toNat) : readDoneOutcome x = none := by
  have hne : ∀ y : Byte, ¬ (y = 0 ∨ 4 ≤ y.toNat) → x ≠ y := fun y hy hxy => hy (hxy ▸ h)
  rw [readDoneOutcome, if_neg (hne 1 (by decide)), if_neg (hne 2 (by decide)), if_neg (hne 3 (by decide))]

theorem inFlightSerial_ne {s : State} {serial : Byte} (h : ∀ u, s.link.inFlight = some u → u.serial ≠ serial) :
    inFlightSerial s ≠ some serial := fun he => by
  obtain ⟨u, hu, hserial⟩ := Option.map_eq_some_iff.mp he
  exact h u hu hserial

theorem takeDone_of_unknown {serial outcome : Byte} {s : State} (hlow : 1 ≤ outcome.toNat) (hhigh : outcome.toNat ≤ 3)
    (hfetched : s.link.fetched = true) (h : ∀ u, s.link.inFlight = some u → u.serial ≠ serial) :
    takeDone serial outcome s = staleDone s := by
  obtain ⟨o, ho⟩ := readDoneOutcome_some hlow hhigh
  simp only [takeDone, ho, hfetched, Bool.true_eq_false, if_false, if_neg (inFlightSerial_ne h)]

theorem takeDone_of_protocol {serial outcome : Byte} {s : State}
    (h : s.link.fetched = false ∨ outcome = 0 ∨ 4 ≤ outcome.toNat) :
    takeDone serial outcome s = protocolFault (staleDone s) := by
  rcases h with h | h
  · unfold takeDone
    split
    · exact if_pos h
    · rfl
  · simp only [takeDone, readDoneOutcome_none h]

/-- A fault raised over a link update moves the lines alone. -/
theorem settle_protocolFault {s : State} (h : LinesFollow s) (l : Link) (hserial : l.serial = s.link.serial) :
    settle (protocolFault { s with link := l }) =
      { s with
        link := l,
        reports := { s.reports with fault := some (withFault s .engineProtocol (s.link.serial - 1)) },
        pins := pinLevels (protocolFault { s with link := l }) } := by
  have hfault : protocolFault { s with link := l } = { s with
      link := l, reports := { s.reports with fault := some (withFault s .engineProtocol (s.link.serial - 1)) } } := by
    rw [protocolFault, raiseFault_eq, hserial]
    rfl
  rw [settle_none (x := protocolFault { s with link := l }) h (by rw [hfault]) (by rw [hfault])]
  rw [hfault]

theorem fetchReplyBytes_length (r : FetchReply) : (fetchReplyBytes r).length = 4 := by
  cases r with
  | idle => rfl
  | start serial channel => rfl
  | item i serial => cases i <;> rfl
  | ended cut serial => rfl

theorem takeFetch_reply (flags : Byte) (s : State) : (takeFetch flags s).link.reply.length = 4 := by
  unfold takeFetch
  split
  · exact fetchReplyBytes_length _
  · exact fetchReplyBytes_length _

theorem speechByte_of_le {s : State} {n : Nat} (h : s.link.reply.length ≤ n) : s.speechByte n = 255 :=
  Lists.getD_of_le h _

/-- Settles O46: the outcome byte and the serial decide. -/
theorem staleAndUnknownRequests : Obligations.StaleAndUnknownRequests := by
  refine ⟨fun serial outcome s hl => ?_, fun code s hl hcode => ?_, fun s n h => speechByte_of_le h,
    fun flags s t ht => ?_⟩
  · intro stale
    have hstale : staleDone s = { s with link := stale } := by
      simp only [staleDone, count_eq]
      rfl
    refine ⟨fun hfetched hlow hhigh hother => ?_, fun hbad => ?_⟩
    · change Host.Outcome.next (settle (takeDone serial outcome s)) = _
      rw [takeDone_of_unknown hlow hhigh hfetched hother, hstale]
      exact congrArg Host.Outcome.next (settle_link (s := s) (l := stale) hl rfl)
    · refine ⟨settle (protocolFault { s with link := stale }), ?_, ?_⟩
      · change Host.Outcome.next (settle (takeDone serial outcome s)) = _
        rw [takeDone_of_protocol hbad, hstale]
      · rw [settle_protocolFault (s := s) hl stale rfl]
  · have hnot : ¬ (code = 1 ∨ code = 2) := fun h => hcode (by rcases h with rfl | rfl <;> decide)
    have hexec : exec (.unknownSpeechRequest code) s
        = .next (settle (protocolFault { s with link := { s.link with reply := [2] } })) :=
      congrArg Host.Outcome.next (if_neg hnot)
    rw [settle_protocolFault (s := s) hl { s.link with reply := [2] } rfl] at hexec
    exact ⟨_, hexec, rfl, rfl, fun n hn => speechByte_of_le hn⟩
  · obtain rfl : settle (takeFetch flags s) = t := Host.Outcome.next.inj ht
    rw [(settle_frame _).2.2.2.2.2.2.2.2.1]
    exact takeFetch_reply flags s

end Sys2Proof.Proofs.Link
end

section
/-! PROOFS. The operations of the drill cycle in the terms of the statements: phrases and echoes that join a lane, image
writes, pausing, presenting (R45, R46, R67, R119, R165). -/
namespace Sys2Proof.Proofs.Drill
open Sys2Proof Sys2Proof.Machine Sys2Proof.Safety Sys2Proof.Proofs.Seats Sys2Proof.Proofs.Say Sys2Proof.Proofs.Reports

/-! ## Joining a lane -/

theorem queueDrillPhrase_kept {k : Seat} {origin : SpeechOrigin} {h : Handle} {s : State}
    (hkept : (s.handle h).state = .kept) (hroom : (s.lane (.prompt k)).length < 4) :
    queueDrillPhrase k origin (some h) s = some (s.nextEntryId, phraseQueued k h origin s) := by
  have htake : takeReference h s = some (s.setHandle h { s.handle h with references := (s.handle h).references + 1 }) := by
    simp only [takeReference, hkept]
  simp only [queueDrillPhrase]
  rw [if_pos ⟨hkept, hroom⟩, htake]
  rfl

theorem queueDrillPhrase_missing {k : Seat} {origin : SpeechOrigin} {h : Option Handle} {s : State}
    (hmissing : ∀ g, h = some g → (s.handle g).state ≠ .kept ∨ 4 ≤ (s.lane (.prompt k)).length) :
    queueDrillPhrase k origin h s = none := by
  cases h with
  | none => rfl
  | some g =>
    exact if_neg fun ⟨hkept, hroom⟩ => (hmissing g rfl).elim (fun hne => hne hkept) (Nat.not_le_of_lt hroom)

theorem queueOrSkip_kept {k : Seat} {origin : SpeechOrigin} {h : Handle} {s : State}
    (hkept : (s.handle h).state = .kept) (hroom : (s.lane (.prompt k)).length < 4) :
    queueOrSkip k origin (some h) s = phraseQueued k h origin s := by
  rw [queueOrSkip, queueDrillPhrase_kept hkept hroom]

theorem queueOrSkip_missing {k : Seat} {origin : SpeechOrigin} {h : Option Handle} {s : State}
    (hmissing : ∀ g, h = some g → (s.handle g).state ≠ .kept ∨ 4 ≤ (s.lane (.prompt k)).length) :
    queueOrSkip k origin h s = s := by
  rw [queueOrSkip, queueDrillPhrase_missing hmissing]

theorem queueEcho_eq (k : Seat) (content : Content) (s : State) : queueEcho k content s = echoJoined k content s := by
  have hcount : (s.lanes.dropped.get k).count = counted (s.lanes.dropped.get k) := count_eq _
  unfold queueEcho echoJoined
  by_cases hroom : (s.lane (.echo k)).length < 8
  · rw [if_pos (c := (s.lane (.echo k)).length < Config.echoLaneSize) hroom]
    simp only [if_pos hroom]
    rfl
  · rw [if_neg (c := (s.lane (.echo k)).length < Config.echoLaneSize) hroom]
    simp only [if_neg hroom, ← hcount]
    cases hlane : s.lane (.echo k) with
    | nil => rw [hlane] at hroom; exact absurd (by decide) hroom
    | cons e rest =>
      cases k <;> rfl

/-! ## Image writes after a seat has changed -/

theorem target_congr {s t : State} {k : Seat} (hdeck : t.deck = s.deck)
    (hword : (t.seat k).currentWord = (s.seat k).currentWord) : t.target k = s.target k := by
  simp only [State.target, State.word, hdeck, hword]

theorem target_of_some {s : State} {k : Seat} {w : WordIndex} (h : (s.seat k).currentWord = some w) :
    s.target k = (s.word w).letters := by rw [State.target, h]

theorem target_of_none {s : State} {k : Seat} (h : (s.seat k).currentWord = none) : s.target k = [] := by
  rw [State.target, h]

/-- Seat k with a context, and its image written with a verdict. -/
def seatShown (k : Seat) (c : SeatContext) (length : Nat) (v : Verdict) (s : State) : State :=
  { s with
    seats := s.seats.set k c,
    mirror := { s.mirror with live := liveWith k (shownState c.state) length v c.tries c.line s } }

theorem writeImage_mapSeat (k : Seat) (v : Verdict) (f : SeatContext → SeatContext) (s : State) :
    writeImage k v (s.mapSeat k f) = seatShown k (f (s.seat k)) ((s.mapSeat k f).target k).length v s := by
  rw [writeImage_eq, State.seat_mapSeat_self]
  rfl

/-- An image write after a change that keeps the current word. -/
theorem writeKeeping_mapSeat {k : Seat} {f : SeatContext → SeatContext} {s : State}
    (hword : (f (s.seat k)).currentWord = (s.seat k).currentWord) :
    writeImageKeepingVerdict k (s.mapSeat k f) =
      seatShown k (f (s.seat k)) (s.target k).length (s.mirror.live.get k).verdict s := by
  have htarget : (s.mapSeat k f).target k = s.target k := target_congr rfl (by rw [State.seat_mapSeat_self, hword])
  rw [← htarget]
  exact writeImage_mapSeat k _ f s

theorem resumePointOf_resumedState (point : ResumePoint) : resumePointOf (resumedState point) = some point := by
  cases point <;> rfl

/-- A seat in a word pauses (R65, R67, R68). -/
theorem pause_eq {k : Seat} {reason : PauseReason} {point : ResumePoint} {s : State}
    (h : (s.seat k).state = resumedState point) :
    pause k reason s =
      seatShown k { s.seat k with state := .paused reason point, idleTimer := none } (s.target k).length
        (s.mirror.live.get k).verdict s := by
  simp only [pause, h, resumePointOf_resumedState]
  exact writeKeeping_mapSeat rfl

theorem toIdle_eq (k : Seat) (s : State) :
    toIdle k s =
      seatShown k { s.seat k with state := .idle, currentWord := none, line := [] } 0 (s.mirror.live.get k).verdict s := by
  have htarget : (s.mapSeat k fun c => { c with state := .idle, currentWord := none, line := [] }).target k = [] :=
    target_of_none (by rw [State.seat_mapSeat_self])
  rw [toIdle, writeImageKeepingVerdict, writeImage_mapSeat, htarget]
  rfl

theorem carryOutRetry_eq (k : Seat) (s : State) :
    carryOutRetry k s =
      seatShown k
        { s.seat k with state := .entry, line := [], tries := (s.seat k).tries + 1, reviewFeedback := none }
        (s.target k).length (s.mirror.live.get k).verdict s := writeKeeping_mapSeat rfl

/-! ## Presenting a word -/

theorem clearForWord_eq (k : Seat) (w : WordIndex) (s : State) :
    clearForWord k w s =
      { s with
        seats :=
          s.seats.set k (freshSeat w (s.seat k).state none (s.seat k).idleTimer (s.seat k)),
        keyQueues := flushedKeys k s } := by
  unfold clearForWord flushedKeys
  cases (s.seat k).settings.flush <;> rfl

theorem target_cleared (k : Seat) (w : WordIndex) (f : SeatContext → SeatContext) (t : State)
    (h : (f (t.seat k)).currentWord = some w) : (t.mapSeat k f).target k = (t.word w).letters :=
  target_of_some (by rw [State.seat_mapSeat_self, h])

/-- A word with a prompt is presented; a timer that runs is left to the end of the event. -/
theorem present_eq_of_prompt {k : Seat} {w : WordIndex} {h : Handle} {s : State} (hprompt : (s.word w).prompt = some h)
    (hkept : (s.handle h).state = .kept) (hroom : (s.lane (.prompt k)).length < 4) :
    present k w s =
      { wordPresented k w h s with
        seats := s.seats.set k (freshSeat w .present (some s.nextEntryId) (s.seat k).idleTimer (s.seat k)) } := by
  have hqueue := queueDrillPhrase_kept (k := k) (origin := .drillPrompt) (s := clearForWord k w s) (h := h)
    (by rw [clearForWord_eq]; exact hkept) (by rw [clearForWord_eq]; exact hroom)
  have hseat : (phraseQueued k h .drillPrompt (clearForWord k w s)).seat k
      = freshSeat w (s.seat k).state none (s.seat k).idleTimer (s.seat k) := by
    rw [clearForWord_eq]
    exact Pair.get_set_self ..
  rw [present, hprompt, hqueue]
  simp only
  rw [writeImage_mapSeat, target_cleared k w _ _ (by rw [hseat]; rfl), hseat, clearForWord_eq]
  simp only [seatShown, phraseQueued, Pair.set_set]
  rfl

/-- A word without a prompt brings its seat straight to ENTRY, with NO_PROMPT. -/
theorem present_eq_of_no_prompt {k : Seat} {w : WordIndex} {s : State}
    (hmissing : ∀ h, (s.word w).prompt = some h → (s.handle h).state ≠ .kept ∨ 4 ≤ (s.lane (.prompt k)).length) :
    present k w s =
      postEvent k .noPrompt
        { s with
          seats := s.seats.set k (freshSeat w .entry none (s.seat k).idleTimer (s.seat k)),
          keyQueues := flushedKeys k s,
          mirror := { s.mirror with live := liveWith k .entry (s.word w).letters.length .none 1 [] s } } := by
  have hqueue := queueDrillPhrase_missing (k := k) (origin := .drillPrompt) (h := (s.word w).prompt)
    (s := clearForWord k w s) (by rw [clearForWord_eq]; exact hmissing)
  have hseat : (clearForWord k w s).seat k = freshSeat w (s.seat k).state none (s.seat k).idleTimer (s.seat k) := by
    rw [clearForWord_eq]
    exact Pair.get_set_self ..
  rw [present, hqueue]
  simp only
  rw [writeImage_mapSeat, target_cleared k w _ _ (by rw [hseat]; rfl), hseat, clearForWord_eq]
  simp only [seatShown, Pair.set_set]
  rfl

/-! ## Taking keys -/

theorem takeKeys_of_empty {k : Seat} {s : State} (h : s.keyQueue k = []) : takeKeys k s = s := by
  rw [takeKeys, h]
  rfl

theorem takeKeys_of_resting {k : Seat} {s : State} (hp : (s.seat k).state ≠ .present) (he : (s.seat k).state ≠ .entry)
    (hi : (s.seat k).state ≠ .idle) : takeKeys k s = s := by
  rw [takeKeys]
  cases hq : s.keyQueue k with
  | nil => rfl
  | cons e rest =>
    rw [List.length_cons, takeKeysUpTo, hq]
    split
    case h_1 h => exact absurd h hp
    case h_2 h => exact absurd h he
    case h_3 h => exact absurd h hi
    case h_4 => rfl

/-- One key waits: it is taken in PRESENT and ENTRY. -/
theorem takeKeys_of_one {k : Seat} {s : State} {e : KeyEntry} (hq : s.keyQueue k = [e])
    (hstate : (s.seat k).state = .present ∨ (s.seat k).state = .entry) :
    takeKeys k s = takeKey k e (s.setKeyQueue k []) := by
  rw [takeKeys, hq, List.length_singleton, takeKeysUpTo, hq]
  rcases hstate with h | h <;> rw [h] <;> rfl

/-- A seat in IDLE discards the keys that wait. -/
theorem takeKeys_of_idle {k : Seat} {s : State} (h : (s.seat k).state = .idle) :
    takeKeys k s = { s with keyQueues := s.keyQueues.set k [] } := by
  have hall : ∀ (n : Nat) (t : State), (t.seat k).state = .idle → (t.keyQueue k).length = n →
      takeKeysUpTo n k t = { t with keyQueues := t.keyQueues.set k [] } := by
    intro n
    induction n with
    | zero =>
      intro t _ hn
      have hempty : t.keyQueue k = [] := List.length_eq_zero_iff.mp hn
      have : t.keyQueues.set k [] = t.keyQueues := by rw [← hempty]; exact Pair.set_get ..
      rw [this]
      rfl
    | succ n ih =>
      intro t ht hn
      obtain ⟨e, rest, hq⟩ : ∃ e rest, t.keyQueue k = e :: rest := List.exists_cons_of_length_eq_add_one hn
      rw [takeKeysUpTo, hq, ht]
      simp only
      rw [ih (t.setKeyQueue k rest) ht (by rw [State.keyQueue_setKeyQueue_self]; rw [hq] at hn; exact Nat.succ.inj hn)]
      simp only [State.setKeyQueue, Pair.set_set]
  exact hall _ s h rfl

end Sys2Proof.Proofs.Drill
end

section
/-! PROOFS. An entry leaves its lane, its seat is told, and the utterance in flight completes (R117, R145). -/
namespace Sys2Proof.Proofs.Completion
open Sys2Proof Sys2Proof.Machine Sys2Proof.Safety
open Sys2Proof.Proofs.Reports Sys2Proof.Proofs.Seats Sys2Proof.Proofs.Drill Sys2Proof.Proofs.Link Sys2Proof.Proofs.Pages

/-! ## References and lanes -/

/-- A reference is given up, and the handle keeps its pages (R104). -/
theorem releaseReference_eq {h : Handle} {s : State} (hk : (s.handle h).state ≠ .releasing ∨ 2 ≤ (s.handle h).references) :
    releaseReference h s = referenceGivenUp h s := by
  rw [releaseReference, returnPages, if_neg fun hdone => ?_]
  · rfl
  · simp only [State.handle_setHandle_self] at hdone
    rcases hk with hk | hk
    · exact hk hdone.1
    · omega

theorem returnPages_of_done {h : Handle} {s : State} (hdone : (s.handle h).state = .releasing ∧ (s.handle h).references = 0) :
    returnPages h s =
      { s with
        phrases :=
          { s.phrases with
            free := freePages (s.handle h).chain s.phrases.free,
            handles := s.phrases.handles.set h.val .reset } } := if_pos hdone

theorem releaseReference_phrases (h : Handle) (s : State) :
    releaseReference h s = { s with phrases := (releaseReference h s).phrases } := by
  simp only [releaseReference, returnPages]
  split <;> rfl

/-- The last reference of a RELEASING handle returns its pages (R106). -/
theorem releaseReference_last {h : Handle} {s : State} (hreleasing : (s.handle h).state = .releasing)
    (hone : (s.handle h).references = 1) :
    releaseReference h s =
      { s with
        phrases :=
          { s.phrases with
            free := freePages (s.handle h).chain s.phrases.free,
            handles := s.phrases.handles.set h.val { state := .empty, itemCount := 0, chain := [], references := 0 } } } := by
  rw [releaseReference, returnPages_of_done (by simp only [State.handle_setHandle_self, hreleasing, hone]; decide),
    State.handle_setHandle_self]
  simp only [State.setHandle, Vector.set_set]
  rfl

theorem eraseP_head (e : SpeechEntry) (rest : List SpeechEntry) :
    ((e :: rest).eraseP fun x => decide (x.id = e.id)) = rest := List.eraseP_cons_of_pos (decide_eq_true rfl)

/-- The head of a lane leaves it (R117). -/
theorem removeEntry_head {i : LaneId} {e : SpeechEntry} {rest : List SpeechEntry} {s : State} (h : s.lane i = e :: rest) :
    removeEntry i e s =
      { s with
        phrases := (match e.content with | .phrase g => releaseReference g s | .letter _ | .cue _ => s).phrases,
        lanes := s.lanes.set i rest } := by
  unfold removeEntry
  rw [h, eraseP_head]
  cases e.content with
  | phrase g => exact congrArg (fun t => t.setLane i rest) (releaseReference_phrases g s)
  | letter c => rfl
  | cue c => rfl

theorem leaveLane_untagged {i : LaneId} {o : SpeechOutcome} {e : SpeechEntry} (htag : e.tag = 0) (s : State) :
    leaveLane i o e s = removeEntry i e s := if_pos htag

/-- An entry that leaves with its tag offers a SPEECH_DONE. -/
theorem leaveLane_eq (i : LaneId) (o : SpeechOutcome) (e : SpeechEntry) (s : State) :
    leaveLane i o e s =
      { removeEntry i e s with
        reports := if e.tag = 0 then s.reports else offered s (.speechDone e.tag o e.seat e.channel) } := by
  obtain ⟨hclock, -, -, -, -, -, -, -, hreports, -⟩ := removeEntry_frame i e s
  by_cases htag : e.tag = 0
  · rw [leaveLane_untagged htag, if_pos htag, ← hreports]
  · have hoffered : offered (removeEntry i e s) (.speechDone e.tag o e.seat e.channel)
        = offered s (.speechDone e.tag o e.seat e.channel) := by
      simp only [offered, withRecord, withLoss, withFault, stamped, hreports, hclock]
    rw [if_neg htag, ← hoffered, ← offerRecord_eq]
    exact if_neg htag

/-! ## A seat is told of its last entry -/

/-- x is s after the last entry in the lanes of seat k, a queue of no keys, has left them. -/
structure Spoken (k : Seat) (s x : State) : Prop where
  clock : x.clock = s.clock
  seats : x.seats = s.seats
  mirror : x.mirror = s.mirror
  deck : x.deck = s.deck
  keys : x.keyQueue k = []
  prompts : x.lane (.prompt k) = []
  echoes : x.lane (.echo k) = []
  otherPrompts : x.lane (.prompt (otherSeat k)) = s.lane (.prompt (otherSeat k))
  otherEchoes : x.lane (.echo (otherSeat k)) = s.lane (.echo (otherSeat k))
  kept : ∀ g, (s.handle g).state = .kept → (x.handle g).state = .kept

/-- x with another context of seat k and other images. -/
def toldAs (k : Seat) (c : SeatContext) (live : Pair Image) (s x : State) : State :=
  { x with seats := s.seats.set k c, mirror := { s.mirror with live := live } }

theorem seat_toldAs (k : Seat) (c : SeatContext) (live : Pair Image) (s x : State) : (toldAs k c live s x).seat k = c :=
  Pair.get_set_self ..

/-- An image of the told seat has been written over what was told. -/
theorem seatShown_toldAs (k : Seat) (c c' : SeatContext) (length : Nat) (s x : State) :
    seatShown k c' length (s.mirror.live.get k).verdict (toldAs k c s.mirror.live s x) =
      toldAs k c' (liveWith k (shownState c'.state) length (s.mirror.live.get k).verdict c'.tries c'.line s) s x := by
  simp only [seatShown, toldAs, Pair.set_set]
  rfl

/-! ## Leaving REVIEW (R60, R63) -/

theorem retryIfDone_of_state {k : Seat} {t : State} (h : (t.seat k).state ≠ .review .retry) : retryIfDone k t = t :=
  if_neg fun hr => h hr.1

theorem retryIfDone_of_done {k : Seat} {t : State} (hstate : (t.seat k).state = .review .retry)
    (hfeedback : (t.seat k).reviewFeedback = none) : retryIfDone k t = carryOutRetry k t := if_pos ⟨hstate, hfeedback⟩

theorem leaveReviewIfDone_of_not {k : Seat} {t : State} (h : (t.seat k).state ≠ .review .final
    ∨ (t.seat k).reviewFeedback ≠ none ∨ (t.seat k).pendingResult ≠ none) : leaveReviewIfDone k t = t :=
  if_neg fun ⟨hstate, hfeedback, hpending⟩ => h.elim (fun hn => hn hstate) fun hn => hn.elim
    (fun hn => hn hfeedback) fun hn => hn hpending

section LeaveReview
variable {k : Seat} {t : State} (hstate : (t.seat k).state = .review .final)
variable (hfeedback : (t.seat k).reviewFeedback = none) (hpending : (t.seat k).pendingResult = none)
include hstate hfeedback hpending

theorem leaveReviewIfDone_idle (hauto : (t.seat k).settings.autoNext = false) : leaveReviewIfDone k t = toIdle k t :=
  (if_pos ⟨hstate, hfeedback, hpending⟩).trans (if_neg (Bool.eq_false_iff.mp hauto))

theorem leaveReviewIfDone_next (hauto : (t.seat k).settings.autoNext = true) : leaveReviewIfDone k t = presentPick k t :=
  (if_pos ⟨hstate, hfeedback, hpending⟩).trans (if_pos hauto)

end LeaveReview

section Told
variable {k : Seat} {s x : State} (hx : Spoken k s x)
include hx

theorem Spoken.seat : x.seat k = s.seat k := by rw [State.seat, hx.seats]; rfl

theorem Spoken.target : x.target k = s.target k := target_congr hx.deck (by rw [hx.seat])

/-- An image of the told seat has been written. -/
theorem Spoken.seatShown_eq (c : SeatContext) (length : Nat) :
    seatShown k c length (x.mirror.live.get k).verdict x =
      toldAs k c (liveWith k (shownState c.state) length (s.mirror.live.get k).verdict c.tries c.line s) s x := by
  simp only [seatShown, toldAs, hx.seats, hx.mirror, liveWith_congr (congrArg Mirror.live hx.mirror)]

/-- The told seat's context has changed alone. -/
theorem Spoken.mapSeat_eq (f : SeatContext → SeatContext) :
    x.mapSeat k f = toldAs k (f (s.seat k)) s.mirror.live s x := by
  have hmirror : ({ s.mirror with live := s.mirror.live } : Mirror) = x.mirror := hx.mirror.symm
  rw [toldAs, hmirror, ← hx.seats, ← hx.seat]
  rfl

/-- The end of the event for a told seat that takes no key. -/
theorem Spoken.settle_toldAs (c : SeatContext) (live : Pair Image) (hl : LinesFollow s) :
    settle (takeKeys k (toldAs k c live s x)) =
      { toldAs k { c with idleTimer := idleTimerAfter k (toldAs k c live s x) } live s x with
        pins := pinLevels (takeKeys k (toldAs k c live s x)) } := by
  rw [takeKeys_of_empty (s := toldAs k c live s x) hx.keys]
  exact settle_one (x := toldAs k c live s x) hl rfl hx.otherPrompts hx.otherEchoes

/-- A told seat that is silent in ENTRY starts its idle timer. -/
theorem Spoken.settle_entry {c : SeatContext} {live : Pair Image} (hl : LinesFollow s) (hc : c.idleTimer = none)
    (hstate : c.state = .entry) :
    settle (takeKeys k (toldAs k c live s x)) =
      { toldAs k { c with idleTimer := startedIdle c } live s x with
        pins := pinLevels (takeKeys k (toldAs k c live s x)) } := by
  have hseat := seat_toldAs k c live s x
  have hempty : ∀ e ∈ (toldAs k c live s x).lane (.prompt k) ++ (toldAs k c live s x).lane (.echo k), e.seat ≠ some k := by
    change ∀ e ∈ x.lane (.prompt k) ++ x.lane (.echo k), _
    rw [hx.prompts, hx.echoes]
    nofun
  have hafter := idleTimerAfter_started (x := toldAs k c live s x) (k := k) (.inr (by rw [hseat]; exact hstate)) hempty
    (by rw [hseat]; exact hc)
  rw [hx.settle_toldAs c live hl, hafter, hseat]

/-- A told seat in a state without an idle timer. -/
theorem Spoken.settle_resting {c : SeatContext} {live : Pair Image} (hl : LinesFollow s) (hc : c.idleTimer = none)
    (hp : c.state ≠ .present) (he : c.state ≠ .entry) :
    settle (takeKeys k (toldAs k c live s x)) =
      { toldAs k c live s x with pins := pinLevels (takeKeys k (toldAs k c live s x)) } := by
  have hseat := seat_toldAs k c live s x
  have hafter := idleTimerAfter_of_state (x := toldAs k c live s x) (k := k) (by rw [hseat]; exact hp)
    (by rw [hseat]; exact he)
  rw [hx.settle_toldAs c live hl, hafter, ← hc]

/-- A told seat that goes on to a picked word. -/
theorem Spoken.settle_present {c : SeatContext} {w : WordIndex} {g : Handle} (hl : LinesFollow s)
    (hc : c.idleTimer = none) (hprompt : (s.word w).prompt = some g) (hkept : (s.handle g).state = .kept) :
    settle (takeKeys k (present k w { x with seats := s.seats.set k c })) =
      { wordPresented k w g { x with seats := s.seats.set k c } with
        pins := pinLevels (takeKeys k (present k w { x with seats := s.seats.set k c })) } := by
  have hseat : ({ x with seats := s.seats.set k c } : State).seat k = c := Pair.get_set_self ..
  have hword : ({ x with seats := s.seats.set k c } : State).word w = s.word w := Pick.word_of_deck_eq hx.deck w
  have hlane : ({ x with seats := s.seats.set k c } : State).lane (.prompt k) = [] := hx.prompts
  have hpresent : present k w { x with seats := s.seats.set k c }
      = wordPresented k w g { x with seats := s.seats.set k c } := by
    rw [present_eq_of_prompt (s := { x with seats := s.seats.set k c }) (by rw [hword]; exact hprompt) (hx.kept g hkept)
      (by rw [hlane]; decide), hseat, hc]
    simp only [wordPresented, hseat]
  have hkeys : (wordPresented k w g { x with seats := s.seats.set k c }).keyQueue k = [] := by
    change (flushedKeys k _).get k = []
    unfold flushedKeys
    split
    · exact Pair.get_set_self ..
    · exact hx.keys
  have hlanes : ∀ i, (wordPresented k w g { x with seats := s.seats.set k c }).lane i =
      if i = .prompt k then
        x.lane (.prompt k) ++ [freshEntry { x with seats := s.seats.set k c } (.phrase g) .drillPrompt (some k) none 0]
      else x.lane i := fun i => State.lane_setLane x (.prompt k) i _
  have hafter : idleTimerAfter k (wordPresented k w g { x with seats := s.seats.set k c }) = none := by
    refine idleTimerAfter_of_entry
      (e := freshEntry { x with seats := s.seats.set k c } (.phrase g) .drillPrompt (some k) none 0) ?_ rfl
    rw [hlanes, if_pos rfl]
    simp
  rw [hpresent, takeKeys_of_empty hkeys]
  rw [settle_one (k := k) (x := wordPresented k w g { x with seats := s.seats.set k c }) hl
    (c := freshSeat w .present (some x.nextEntryId) none c) ?_ ?_ ?_, hafter]
  · simp only [wordPresented, hseat, Pair.set_set, freshSeat]
  · simp only [wordPresented, hseat, Pair.set_set]
  · rw [hlanes, if_neg (by simp), hx.otherPrompts]
  · rw [hlanes, if_neg (by simp), hx.otherEchoes]

section Feedback
variable {c : SeatContext} (hfeedback : c.reviewFeedback = none)
include hfeedback

theorem Spoken.retry_eq (hstate : c.state = .review .retry) (hword : c.currentWord = (s.seat k).currentWord) :
    leaveReviewIfDone k (retryIfDone k (toldAs k c s.mirror.live s x)) =
      toldAs k { c with state := .entry, line := [], tries := c.tries + 1, reviewFeedback := none }
        (liveWith k .entry (s.target k).length (s.mirror.live.get k).verdict (c.tries + 1) [] s) s x := by
  have hseat := seat_toldAs k c s.mirror.live s x
  have htarget : (toldAs k c s.mirror.live s x).target k = s.target k := target_congr hx.deck (by rw [hseat, hword])
  rw [retryIfDone_of_done (by rw [hseat]; exact hstate) (by rw [hseat]; exact hfeedback), carryOutRetry_eq, htarget, hseat]
  refine (congrArg _ (seatShown_toldAs k c _ _ s x)).trans (leaveReviewIfDone_of_not (.inl ?_))
  rw [seat_toldAs]
  nofun

omit hx in
theorem toIdle_toldAs (hstate : c.state = .review .final) (hpending : c.pendingResult = none)
    (hauto : c.settings.autoNext = false) :
    leaveReviewIfDone k (retryIfDone k (toldAs k c s.mirror.live s x)) =
      toldAs k { c with state := .idle, currentWord := none, line := [] }
        (liveWith k .idle 0 (s.mirror.live.get k).verdict c.tries [] s) s x := by
  have hseat := seat_toldAs k c s.mirror.live s x
  rw [retryIfDone_of_state (by rw [hseat, hstate]; nofun), leaveReviewIfDone_idle (by rw [hseat]; exact hstate)
    (by rw [hseat]; exact hfeedback) (by rw [hseat]; exact hpending) (by rw [hseat]; exact hauto), toIdle_eq, hseat]
  exact seatShown_toldAs k c _ _ s x

theorem Spoken.presentPick_eq {w : WordIndex} (hstate : c.state = .review .final) (hpending : c.pendingResult = none)
    (hauto : c.settings.autoNext = true) (hpick : pickWord k s = some w)
    (hprevious : c.previousWord = (s.seat k).previousWord) :
    leaveReviewIfDone k (retryIfDone k (toldAs k c s.mirror.live s x)) =
      present k w { x with seats := s.seats.set k c } := by
  have hseat := seat_toldAs k c s.mirror.live s x
  have hsame : toldAs k c s.mirror.live s x = { x with seats := s.seats.set k c } := by rw [toldAs, ← hx.mirror]
  have hpick' : pickWord k (toldAs k c s.mirror.live s x) = some w :=
    (Pick.pickWord_of_deck_eq (s := s) (t := toldAs k c s.mirror.live s x) hx.deck (by rw [hseat, hprevious])).trans hpick
  rw [retryIfDone_of_state (by rw [hseat, hstate]; nofun), leaveReviewIfDone_next (by rw [hseat]; exact hstate)
    (by rw [hseat]; exact hfeedback) (by rw [hseat]; exact hpending) (by rw [hseat]; exact hauto), presentPick, hpick',
    hsame]

end Feedback

/-- Everything that `SeatIsTold` says holds of what telling the seat and its keys come to. -/
theorem Spoken.seatIsTold {e : SpeechEntry} {answers : State → Prop} (hl : LinesFollow s) (hseat : e.seat = some k)
    (hidle : (s.seat k).idleTimer = none)
    (h : ∀ y, y.reports = x.reports → y.link = x.link → settle (takeKeys k (tellSeat e x)) =
      { y with pins := pinLevels (takeKeys k (tellSeat e x)) } → answers y) :
    SeatIsTold k e s x answers := by
  have hprompt : (s.seat k).presentationPrompt = some e.id → tellSeat e x = promptDone k x := fun hp => by
    simp only [tellSeat, hseat, hx.seat, hp, if_true]
  have hfeedback : (s.seat k).presentationPrompt ≠ some e.id → (s.seat k).reviewFeedback = some e.id →
      tellSeat e x = leaveReviewIfDone k (retryIfDone k
        (toldAs k { s.seat k with reviewFeedback := none } s.mirror.live s x)) := fun hp hf => by
    rw [← hx.mapSeat_eq fun c => { c with reviewFeedback := none }]
    simp only [tellSeat, hseat, hx.seat, hp, hf, if_false, if_true]
    rfl
  refine ⟨fun hp => ⟨fun hstate => ?_, fun reason hstate => ?_⟩, fun hp hf => ⟨fun hstate => ?_, fun hstate hpending => ?_,
    fun reason phase hstate => ?_, fun hstate hpending hauto => ?_, fun w g hstate hpending hauto hpick hword hkept => ?_⟩⟩
  · have htell : tellSeat e x = toldAs k { s.seat k with presentationPrompt := none, state := .entry }
        (liveWith k .entry (s.target k).length (s.mirror.live.get k).verdict (s.seat k).tries (s.seat k).line s) s x := by
      rw [hprompt hp, promptDone, hx.seat, hstate]
      simp only
      rw [writeKeeping_mapSeat rfl, hx.seatShown_eq, hx.target, hx.seat]
      rfl
    refine h _ rfl rfl ?_
    rw [htell]
    refine hx.settle_entry hl ?_ rfl
    exact hidle
  · have htell : tellSeat e x = toldAs k { s.seat k with presentationPrompt := none, state := .paused reason .entry }
        s.mirror.live s x := by
      rw [hprompt hp, promptDone, hx.seat, hstate]
      exact hx.mapSeat_eq _
    refine h _ rfl rfl ?_
    rw [htell]
    refine hx.settle_resting hl ?_ nofun nofun
    exact hidle
  · refine h _ rfl rfl ?_
    rw [hfeedback hp hf, hx.retry_eq (c := { s.seat k with reviewFeedback := none }) rfl hstate rfl]
    refine hx.settle_entry hl ?_ rfl
    exact hidle
  · refine h _ rfl rfl ?_
    rw [hfeedback hp hf, retryIfDone_of_state (by rw [seat_toldAs, hstate]; nofun),
      leaveReviewIfDone_of_not (.inr (.inr (by rw [seat_toldAs]; exact hpending)))]
    refine hx.settle_resting hl ?_ ?_ ?_
    · exact hidle
    · rw [hstate]; nofun
    · rw [hstate]; nofun
  · refine h _ rfl rfl ?_
    rw [hfeedback hp hf, retryIfDone_of_state (by rw [seat_toldAs, hstate]; nofun),
      leaveReviewIfDone_of_not (.inl (by rw [seat_toldAs, hstate]; nofun))]
    refine hx.settle_resting hl ?_ ?_ ?_
    · exact hidle
    · rw [hstate]; nofun
    · rw [hstate]; nofun
  · refine h _ rfl rfl ?_
    rw [hfeedback hp hf, toIdle_toldAs (c := { s.seat k with reviewFeedback := none }) rfl hstate hpending hauto]
    refine hx.settle_resting hl ?_ nofun nofun
    exact hidle
  · refine h _ rfl rfl ?_
    rw [hfeedback hp hf, hx.presentPick_eq (c := { s.seat k with reviewFeedback := none }) rfl hstate hpending hauto hpick
      rfl]
    refine hx.settle_present hl ?_ hword hkept
    exact hidle

end Told

/-! ## The utterance in flight completes -/

theorem complete_of_head {u : Utterance} {e : SpeechEntry} {rest : List SpeechEntry} {s : State}
    (hu : s.link.inFlight = some u) (hlane : s.lane u.lane = e :: rest) (o : SpeechOutcome) :
    complete o s =
      match e.seat with
      | some k => takeKeys k (tellSeat e (leaveLane u.lane o e { s with link := nothingInFlight s }))
      | none => tellSeat e (leaveLane u.lane o e { s with link := nothingInFlight s }) := by
  have hlane' : ∀ l : Link, ({ s with link := l } : State).lane u.lane = e :: rest := fun _ => hlane
  simp only [complete, hu, hlane']
  rfl

/-- The utterance of a SAY of the system lane completes (R117, R145). -/
theorem complete_system {u : Utterance} {e : SpeechEntry} {rest : List SpeechEntry} {h : Handle} {s : State}
    (hu : s.link.inFlight = some u) (hsystem : u.lane = .system) (hlane : s.lane .system = e :: rest)
    (hseat : e.seat = none) (hcontent : e.content = .phrase h) (o : SpeechOutcome) :
    complete o s =
      { s with
        phrases := (releaseReference h s).phrases, lanes := { s.lanes with system := rest }, link := nothingInFlight s,
        reports := if e.tag = 0 then s.reports else offered s (.speechDone e.tag o none e.channel) } := by
  have hphrases : (releaseReference h { s with link := nothingInFlight s }).phrases = (releaseReference h s).phrases := by
    simp only [releaseReference, returnPages]
    rw [apply_ite State.phrases, apply_ite State.phrases]
    rfl
  have hremove := removeEntry_head (s := { s with link := nothingInFlight s }) (i := .system) hlane
  rw [complete_of_head hu (by rw [hsystem]; exact hlane), hsystem, leaveLane_eq, hremove, hcontent, hseat]
  simp only [tellSeat, hseat, hphrases]
  rfl

/-- The same where the handle keeps its pages. -/
theorem complete_systemSpoken {u : Utterance} {e : SpeechEntry} {rest : List SpeechEntry} {h : Handle} {s : State}
    (hu : s.link.inFlight = some u) (hsystem : u.lane = .system) (hlane : s.lane .system = e :: rest)
    (hseat : e.seat = none) (hcontent : e.content = .phrase h) (hkept : (s.handle h).state = .kept) (o : SpeechOutcome) :
    complete o s = systemSpoken o e rest h s := by
  rw [complete_system hu hsystem hlane hseat hcontent, releaseReference_eq (.inl (by rw [hkept]; nofun))]
  rfl

section PromptLane
variable {k : Seat} {u : Utterance} {e : SpeechEntry} {h : Handle} {s : State}
variable (hlane : s.lane (.prompt k) = [e]) (hecho : s.lane (.echo k) = []) (hseat : e.seat = some k)
variable (hcontent : e.content = .phrase h) (hkept : (s.handle h).state = .kept)

include hlane hseat hcontent hkept in
/-- The utterance of a seat's last prompt completes (R117, R145). -/
theorem complete_promptSpoken (hu : s.link.inFlight = some u) (hprompt : u.lane = .prompt k) (htag : e.tag = 0)
    (o : SpeechOutcome) : complete o s = takeKeys k (tellSeat e (promptSpoken k h s)) := by
  have hrelease : releaseReference h { s with link := nothingInFlight s }
      = referenceGivenUp h { s with link := nothingInFlight s } := releaseReference_eq (.inl (by
    change (s.handle h).state ≠ .releasing
    rw [hkept]
    nofun))
  have hremove := removeEntry_head (s := { s with link := nothingInFlight s }) (i := .prompt k) hlane
  rw [complete_of_head hu (by rw [hprompt]; exact hlane), hprompt, leaveLane_untagged htag, hremove, hcontent, hseat]
  simp only [hrelease]
  rfl

include hlane hecho hseat in
theorem idleTimer_of_prompt (hl : LinesFollow s) : (s.seat k).idleTimer = none :=
  idleTimer_of_entry hl (e := e) (by rw [hlane, hecho]; exact List.mem_singleton_self e) hseat

include hecho in
theorem spoken_promptSpoken (hkeys : s.keyQueue k = []) : Spoken k s (promptSpoken k h s) where
  clock := rfl
  seats := rfl
  mirror := rfl
  deck := rfl
  keys := hkeys
  prompts := Pair.get_set_self ..
  echoes := hecho
  otherPrompts := Pair.get_set_other ..
  otherEchoes := rfl
  kept := fun g hg => by
    have hhandle : (promptSpoken k h s).handle g
        = if g = h then { s.handle h with references := (s.handle h).references - 1 } else s.handle g :=
      handle_of_set rfl g
    rw [hhandle]
    split
    case isTrue hgh => rw [← hgh]; exact hg
    case isFalse => exact hg

end PromptLane

/-! ## The end of the event -/

/-- What an event does to the link and the reports after everything else moves the lines alone. -/
theorem settle_over {x y : State} {pins : Pins} (h : settle x = { y with pins := pins }) (l : Link) (r : ReportUnit) :
    settle { x with link := l, reports := r } =
      { y with link := l, reports := r, pins := pinLevels { x with link := l, reports := r } } := by
  have hover : settle { x with link := l, reports := r } =
      { settle x with link := l, reports := r, pins := pinLevels { x with link := l, reports := r } } := by
    rw [settle_eq, settle_eq]
    rfl
  rw [hover, h]

theorem settled_fields {x y : State} {pins : Pins} (h : settle x = { y with pins := pins }) :
    x.link = y.link ∧ x.reports = y.reports := by
  obtain ⟨-, -, -, -, -, -, -, -, hlink, hreports, -⟩ := settle_frame x
  rw [← hlink, ← hreports, h]
  exact ⟨rfl, rfl⟩

theorem Spoken.over {k : Seat} {s x : State} (h : Spoken k s x) (l : Link) (r : ReportUnit) :
    Spoken k s { x with link := l, reports := r } :=
  ⟨h.clock, h.seats, h.mirror, h.deck, h.keys, h.prompts, h.echoes, h.otherPrompts, h.otherEchoes, h.kept⟩

theorem Spoken.faulted {k : Seat} {s x : State} (h : Spoken k s x) (kind : FaultKind) (detail : Byte) :
    Spoken k s (faulted kind detail x) := h.over x.link _

/-- A seat that is told while the link and the reports are something else. -/
theorem seatIsTold_over {k : Seat} {e : SpeechEntry} {s x : State} {answers answers' : State → Prop} (l : Link)
    (r : ReportUnit) (h : SeatIsTold k e s x answers) (hanswers : ∀ y, answers y → answers' { y with link := l, reports := r }) :
    SeatIsTold k e s { x with link := l, reports := r } answers' := by
  obtain ⟨hprompt, hfeedback⟩ := h
  refine ⟨fun hp => ⟨fun h => hanswers _ ((hprompt hp).1 h), fun a h => hanswers _ ((hprompt hp).2 a h)⟩, fun hp hf => ?_⟩
  obtain ⟨h1, h2, h3, h4, h5⟩ := hfeedback hp hf
  exact ⟨fun h => hanswers _ (h1 h), fun h h' => hanswers _ (h2 h h'), fun a b h => hanswers _ (h3 a b h),
    fun a b c => hanswers _ (h4 a b c), fun a b c d e f g h => hanswers _ (h5 a b c d e f g h)⟩

end Sys2Proof.Proofs.Completion
end

section
/-! PROOFS. DONE, the response timer, and the FETCH that starts afresh (R134, R142, R144). -/
namespace Sys2Proof.Proofs.Done
open Sys2Proof Sys2Proof.Machine Sys2Proof.Safety Sys2Proof.Proofs.Pages
open Sys2Proof.Proofs.Reports Sys2Proof.Proofs.Seats Sys2Proof.Proofs.Drill Sys2Proof.Proofs.Link Sys2Proof.Proofs.Completion

/-! ## DONE -/

/-- A DONE for the utterance in flight is accepted (R142). -/
theorem exec_engineDone {u : Utterance} {outcome : Byte} {o : SpeechOutcome} {s : State} (hfetched : s.link.fetched = true)
    (hu : s.link.inFlight = some u) (ho : readDoneOutcome outcome = some o) :
    exec (.engineDone u.serial outcome) s =
      .next (settle { complete o s with link := { (complete o s).link with reply := [1] } }) := by
  have hserial : inFlightSerial s = some u.serial := by rw [inFlightSerial, hu]; rfl
  have hdone : takeDone u.serial outcome s = acceptDone o s := by
    simp only [takeDone, ho, hfetched, Bool.true_eq_false, if_false, if_pos hserial]
  exact congrArg (fun t => Host.Outcome.next (settle t)) hdone

theorem count_pages_returned (h : Handle) {s : State} (hreleasing : (s.handle h).state = .releasing)
    (hone : (s.handle h).references = 1) :
    (releaseReference h s).phrases.pages = s.phrases.pages
      ∧ (releaseReference h s).phrases.handles =
        s.phrases.handles.set h.val { state := .empty, itemCount := 0, chain := [], references := 0 }
      ∧ ∀ p, (releaseReference h s).phrases.free.count p = s.phrases.free.count p + (s.handle h).chain.count p := by
  rw [releaseReference_last hreleasing hone]
  exact ⟨rfl, rfl, fun p => count_freePages _ _ p⟩

theorem done_system {u : Utterance} {e : SpeechEntry} {rest : List SpeechEntry} {h : Handle} {outcome : Byte}
    {o : SpeechOutcome} {s : State} (hl : LinesFollow s) (hfetched : s.link.fetched = true)
    (ho : readDoneOutcome outcome = some o) (hu : s.link.inFlight = some u) (hsystem : u.lane = .system)
    (hlane : s.lane .system = e :: rest) (hseat : e.seat = none) (hcontent : e.content = .phrase h) :
    ∃ t, exec (.engineDone u.serial outcome) s = .next t
      ∧ t = { s with
          phrases := t.phrases, lanes := { s.lanes with system := rest }, link := linkDone s,
          reports := if e.tag = 0 then s.reports else offered s (.speechDone e.tag o none e.channel), pins := t.pins }
      ∧ t.phrases = (releaseReference h s).phrases := by
  have hexec := exec_engineDone hfetched hu ho
  rw [complete_system hu hsystem hlane hseat hcontent o] at hexec
  have hsettle := settle_of_seats (s := s) (x := { s with
    phrases := (releaseReference h s).phrases, lanes := { s.lanes with system := rest }, link := linkDone s,
    reports := if e.tag = 0 then s.reports else offered s (.speechDone e.tag o none e.channel) })
    hl rfl fun k => ⟨rfl, rfl⟩
  exact ⟨_, hexec.trans (congrArg Host.Outcome.next hsettle), rfl, rfl⟩

theorem done_echo {k : Seat} {u : Utterance} {e : SpeechEntry} {c : Byte} {s : State} (hl : LinesFollow s)
    (hfetched : s.link.fetched = true) (hu : s.link.inFlight = some u) (hecho : u.lane = .echo k)
    (hlane : s.lane (.echo k) = [e]) (hprompts : s.lane (.prompt k) = []) (hseat : e.seat = some k)
    (hcontent : e.content = .letter c) (htag : e.tag = 0) (hstate : (s.seat k).state = .entry)
    (hkeys : s.keyQueue k = []) (hprompt : (s.seat k).presentationPrompt = none)
    (hfeedback : (s.seat k).reviewFeedback = none) :
    ∃ t, exec (.engineDone u.serial 1) s = .next t
      ∧ t = { s with
          seats := s.seats.set k { s.seat k with idleTimer := startedIdle (s.seat k) },
          lanes := { s.lanes with echo := s.lanes.echo.set k [] }, link := linkDone s, pins := t.pins } := by
  have hidle : (s.seat k).idleTimer = none :=
    idleTimer_of_entry hl (e := e) (by rw [hprompts, hlane]; exact List.mem_singleton_self e) hseat
  have hremove := removeEntry_head (s := { s with link := nothingInFlight s }) (i := .echo k) hlane
  have htell : ∀ t : State, t.seat k = s.seat k → tellSeat e t = t := fun t ht => by
    simp only [tellSeat, hseat, ht, hprompt, hfeedback, reduceCtorEq, if_false]
  have hcomplete : complete .played s
      = { s with lanes := { s.lanes with echo := s.lanes.echo.set k [] }, link := nothingInFlight s } := by
    rw [complete_of_head hu (by rw [hecho]; exact hlane), hecho, leaveLane_untagged htag, hremove, hcontent, hseat]
    exact (congrArg (takeKeys k) (htell { s with lanes := s.lanes.set (.echo k) [], link := nothingInFlight s } rfl)).trans
      (takeKeys_of_empty hkeys)
  have hexec := exec_engineDone hfetched hu (outcome := 1) rfl
  rw [hcomplete] at hexec
  have hother : (s.lanes.echo.set k []).get (otherSeat k) = s.lanes.echo.get (otherSeat k) := Pair.get_set_other ..
  have hsettle := settle_one (k := k) (c := s.seat k) (s := s)
    (x := { s with lanes := { s.lanes with echo := s.lanes.echo.set k [] }, link := linkDone s })
    hl (Pair.set_get ..).symm rfl hother
  have hempty : ∀ e' ∈ s.lane (.prompt k) ++ (s.lanes.echo.set k []).get k, e'.seat ≠ some k := by
    rw [hprompts, Pair.get_set_self]
    nofun
  have hafter := idleTimerAfter_started (k := k)
    (x := { s with lanes := { s.lanes with echo := s.lanes.echo.set k [] }, link := linkDone s }) (.inr hstate) hempty hidle
  rw [hafter] at hsettle
  exact ⟨_, hexec.trans (congrArg Host.Outcome.next hsettle), rfl⟩

/-- Settles O45: by the lane of the utterance, and what its seat waits for. -/
theorem doneCompletesTheUtterance : Obligations.DoneCompletesTheUtterance := by
  refine ⟨fun u e rest h outcome o s hl hfetched houtcome hu hsystem hlane hseat hcontent hstate => ?_,
    fun k u e c s hl hfetched hu hecho hlane hprompts hseat hcontent htag hstate hkeys hprompt hfeedback =>
      done_echo hl hfetched hu hecho hlane hprompts hseat hcontent htag hstate hkeys hprompt hfeedback,
    fun k u e h outcome s hl _ hfetched hlow hhigh hu hprompt hlane hecho hseat hcontent hkept htag hkeys => ?_⟩
  · have ho : readDoneOutcome outcome = some o := by
      rcases houtcome with ⟨rfl, rfl⟩ | ⟨rfl, rfl⟩ | ⟨rfl, rfl⟩ <;> rfl
    obtain ⟨t, ht, heq, hphrases⟩ := done_system hl hfetched ho hu hsystem hlane hseat hcontent
    refine ⟨t, ht, heq, fun hkeeps => ?_, fun hreleasing hone => ?_⟩
    · rw [hphrases, releaseReference_eq (hkeeps.imp_left fun hkept => by rw [hkept]; nofun)]
    · rw [hphrases]
      exact count_pages_returned h hreleasing hone
  · obtain ⟨o, ho⟩ := readDoneOutcome_some hlow hhigh
    have hexec := exec_engineDone hfetched hu ho
    rw [complete_promptSpoken hlane hseat hcontent hkept hu hprompt htag] at hexec
    have hspoken := spoken_promptSpoken (h := h) hecho hkeys
    have hidle := idleTimer_of_prompt hlane hecho hseat hl
    refine seatIsTold_over (x := promptSpoken k h s) (answers := fun y => ∃ t, exec (.engineDone u.serial outcome) s = .next t
      ∧ t = { y with link := linkDone s, reports := s.reports, pins := t.pins }) (linkDone s) s.reports
      (hspoken.seatIsTold hl hseat hidle fun y hreports hlink hy => ?_) fun y hy => hy
    obtain ⟨hlink', hreports'⟩ := settled_fields hy
    have hover := settle_over hy { (takeKeys k (tellSeat e (promptSpoken k h s))).link with reply := [1] }
      (takeKeys k (tellSeat e (promptSpoken k h s))).reports
    refine ⟨_, hexec.trans (congrArg Host.Outcome.next hover), ?_⟩
    rw [hlink', hreports', hlink, hreports]
    rfl

/-! ## The response timer -/

theorem exec_responseTimerExpiry {first : Bool} {u : Utterance} {s : State} (hu : s.link.inFlight = some u)
    (hdue : s.link.responseTimer = some 0) :
    exec (.responseTimerExpiry first) s =
      .next (settle (if first then complete .lost (faulted .engineTimeout u.serial s)
        else faulted .engineTimeout u.serial (complete .lost s))) := by
  have hfire : fireResponse first s = if first then complete .lost (raiseFault .engineTimeout u.serial s)
      else raiseFault .engineTimeout u.serial (complete .lost s) := by
    simp only [fireResponse, hu, hdue]
  rw [raiseFault_eq, raiseFault_eq] at hfire
  exact congrArg (fun t => Host.Outcome.next (settle t)) hfire

/-- Settles O47: which fault comes first is the operand's; the rest is a completion as LOST. -/
theorem responseTimerLosesTheUtterance : Obligations.ResponseTimerLosesTheUtterance := by
  intro first u e h s hl hu timedOut
  refine ⟨fun hdue hcontent hkept => ⟨fun rest hsystem hlane hseat => ?_,
    fun k _ hprompt hlane hecho hseat htag hkeys => ?_⟩, fun hnot => ?_⟩
  · have hexec := exec_responseTimerExpiry (first := first) hu hdue
    rw [complete_systemSpoken hu hsystem hlane hseat hcontent hkept,
      complete_systemSpoken (s := faulted .engineTimeout u.serial s) hu hsystem hlane hseat hcontent hkept] at hexec
    refine ⟨_, hexec, ?_⟩
    cases first with
    | true => exact settle_of_seats hl rfl fun k => ⟨rfl, rfl⟩
    | false => exact settle_of_seats hl rfl fun k => ⟨rfl, rfl⟩
  · have hexec := exec_responseTimerExpiry (first := first) hu hdue
    rw [complete_promptSpoken hlane hseat hcontent hkept hu hprompt htag,
      complete_promptSpoken (s := faulted .engineTimeout u.serial s) hlane hseat hcontent hkept hu hprompt htag] at hexec
    have hspoken := spoken_promptSpoken (h := h) hecho hkeys
    have hidle := idleTimer_of_prompt hlane hecho hseat hl
    cases first with
    | true =>
      refine (hspoken.faulted .engineTimeout u.serial).seatIsTold hl hseat hidle fun y _ _ hy => ?_
      exact ⟨_, hexec.trans (congrArg Host.Outcome.next hy), rfl⟩
    | false =>
      refine seatIsTold_over (x := promptSpoken k h s) (answers := fun y => ∃ t, exec (.responseTimerExpiry false) s = .next t
        ∧ t = { y with
            link := (promptSpoken k h s).link, reports := (faulted .engineTimeout u.serial (promptSpoken k h s)).reports,
            pins := t.pins }) (promptSpoken k h s).link (faulted .engineTimeout u.serial (promptSpoken k h s)).reports
        (hspoken.seatIsTold hl hseat hidle fun y hreports hlink hy => ?_) fun y hy => hy
      obtain ⟨hlink', hreports'⟩ := settled_fields hy
      have hover := settle_over hy (takeKeys k (tellSeat e (promptSpoken k h s))).link
        (faulted .engineTimeout u.serial (takeKeys k (tellSeat e (promptSpoken k h s)))).reports
      have hclock : (takeKeys k (tellSeat e (promptSpoken k h s))).clock = (promptSpoken k h s).clock := by simp
      have hfault : (faulted .engineTimeout u.serial (takeKeys k (tellSeat e (promptSpoken k h s)))).reports
          = (faulted .engineTimeout u.serial (promptSpoken k h s)).reports := by
        simp only [faulted, withFault, hreports', hreports, hclock]
      refine ⟨_, hexec.trans (congrArg Host.Outcome.next hover), ?_⟩
      rw [hlink', hlink, hfault]
  · have hfire : fireResponse first s = s := Tick.fireResponse_of_not_due hnot
    change Host.Outcome.next (settle (fireResponse first s)) = _
    rw [hfire, settle_eq_self hl]

end Sys2Proof.Proofs.Done
end

section
/-! PROOFS. A FETCH that idles, repeats or starts afresh (R133, R134, R135). -/
namespace Sys2Proof.Proofs.Fetch
open Sys2Proof Sys2Proof.Machine Sys2Proof.Safety
open Sys2Proof.Proofs.Reports Sys2Proof.Proofs.Seats Sys2Proof.Proofs.Link Sys2Proof.Proofs.Completion

/-! ## A FETCH does not read the timers and the lines -/

/-- A state with other idle timers and lines. -/
def retimed (a b : Option Nat) (p : Pins) (s : State) : State :=
  { s with seats := { a := { s.seats.a with idleTimer := a }, b := { s.seats.b with idleTimer := b } }, pins := p }

section Retimed
variable (a b : Option Nat) (p : Pins) (s : State)

theorem settle_eq_retimed : settle s = retimed (idleTimerAfter .a s) (idleTimerAfter .b s) (pinLevels s) s := settle_eq s

theorem laneOffers_retimed (i : LaneId) : laneOffers i (retimed a b p s) = laneOffers i s := by
  cases i with
  | system => rfl
  | prompt k => cases k <;> rfl
  | echo k => cases k <;> rfl

theorem arbiterLane_retimed : arbiterLane (retimed a b p s) = arbiterLane s := by
  simp only [arbiterLane, seatOffers, seatLane, laneOffers_retimed]
  rfl

theorem startChannel_retimed (e : SpeechEntry) : startChannel e (retimed a b p s) = startChannel e s := by
  unfold startChannel
  cases e.seat with
  | none => rfl
  | some k => cases k <;> rfl

/-- With nothing in flight the arbiter's choice and its channel are all that a FETCH reads of the seats. -/
theorem serveFetch_retimed (hidle : s.link.inFlight = none) :
    serveFetch (retimed a b p s) = ((serveFetch s).1, retimed a b p (serveFetch s).2) := by
  have hidle' : (retimed a b p s).link.inFlight = none := hidle
  simp only [serveFetch, hidle, hidle', arbiterLane_retimed]
  cases arbiterLane s with
  | none => rfl
  | some i =>
    have hlane : (retimed a b p s).lane i = s.lane i := rfl
    simp only [startUtterance, hlane, startChannel_retimed]
    cases s.lane i <;> rfl

end Retimed

/-- A FETCH that is served with nothing in flight changes the link, and the head of one lane. -/
theorem serveFetch_names {s : State} (hidle : s.link.inFlight = none) :
    (serveFetch s).2.seats = s.seats ∧ ∀ i, ((serveFetch s).2.lane i).map (·.seat) = (s.lane i).map (·.seat) := by
  simp only [serveFetch, hidle]
  cases arbiterLane s with
  | none => exact ⟨rfl, fun _ => rfl⟩
  | some i =>
    simp only [startUtterance]
    cases hlane : s.lane i with
    | nil => exact ⟨rfl, fun _ => rfl⟩
    | cons e rest =>
      exact ⟨rfl, names_set_head (e' := { e with state := .streaming, channel := some (startChannel e s) }) hlane rfl⟩

/-- Timers that were settled before are as they are settled afterwards. -/
theorem settle_retimed {s t : State} (p : Pins) (hs : t.seats = s.seats)
    (hl : ∀ i, (t.lane i).map (·.seat) = (s.lane i).map (·.seat)) :
    settle (retimed (idleTimerAfter .a s) (idleTimerAfter .b s) p t) = settle t := by
  have hruns : ∀ k, idleTimerRuns k t = idleTimerRuns k s := fun k => idleTimerRuns_of_names k hs hl
  have hafter : ∀ k, idleTimerAfter k t = idleTimerAfter k s := fun k => by
    rw [idleTimerAfter, idleTimerAfter, hruns, State.seat, hs]
    rfl
  have hidem : ∀ k, idleTimerAfter k (retimed (idleTimerAfter .a s) (idleTimerAfter .b s) p t) = idleTimerAfter k s :=
    fun k => by
      have htimer : ((retimed (idleTimerAfter .a s) (idleTimerAfter .b s) p t).seat k).idleTimer = idleTimerAfter k s := by
        cases k <;> rfl
      have hruns' : idleTimerRuns k (retimed (idleTimerAfter .a s) (idleTimerAfter .b s) p t) = idleTimerRuns k t := by
        cases k <;> rfl
      rw [← htimer]
      exact idleTimerAfter_eq_self (by rw [htimer, idleTimerAfter_isSome, hruns', hruns])
  rw [settle_eq_retimed, settle_eq_retimed, hidem, hidem, hafter, hafter]
  rfl

/-- What a FETCH comes to when the utterance that was in flight has completed: that of a later FETCH on the part as the
event left it (R134). -/
theorem settle_answered_settled (flags : Byte) {z y : State} {pins : Pins} (hidle : z.link.inFlight = none)
    (hy : settle z = { y with pins := pins }) (p : Pins) :
    settle (answered (serveFetch (accepted flags { y with link := { y.link with sequence := none }, pins := p }))) =
      settle (answered (serveFetch (accepted flags z))) := by
  have hy' : y = { settle z with pins := y.pins } := by rw [hy]
  have hstate : accepted flags { y with link := { y.link with sequence := none }, pins := p }
      = retimed (idleTimerAfter .a z) (idleTimerAfter .b z) p (accepted flags z) := by
    rw [hy', settle_eq_retimed]
    rfl
  obtain ⟨hseats, hnames⟩ := serveFetch_names (s := accepted flags z) hidle
  rw [hstate, serveFetch_retimed _ _ _ (accepted flags z) hidle]
  exact settle_retimed (s := accepted flags z) (t := answered (serveFetch (accepted flags z))) p hseats hnames

/-- The same for two states that differ in their lines alone. -/
theorem exec_fetch_afterwards {flags : Byte} {s z y : State} {pins : Pins} (hfresh : flags.getLsbD 1 = true)
    (hcomplete : complete .lost s = z) (hidle : z.link.inFlight = none) (hy : settle z = { y with pins := pins }) (p : Pins) :
    exec (.fetch flags) s = exec (.fetch flags) { y with link := { y.link with sequence := none }, pins := p } := by
  have hylink : y.link.inFlight = none := by rw [← (settled_fields hy).1]; exact hidle
  rw [exec_fetch_of_new (.inl hfresh), acceptFetch_of_fresh hfresh, hcomplete,
    exec_fetch_of_idle (s := { y with link := { y.link with sequence := none }, pins := p }) hylink (.inl hfresh),
    settle_answered_settled flags hidle hy]

/-- Settles O40: a fresh FETCH first completes what was in flight as LOST. -/
theorem fetchIdlesRepeatsOrStartsAfresh : Obligations.FetchIdlesRepeatsOrStartsAfresh := by
  refine ⟨fun flags s hl hidle hoffers hnew => ?_, fun flags s hl hfresh hsequence => ?_,
    fun flags u e h s hl hfresh hu _ hcontent hkept => ⟨fun rest hsystem hlane hseat => ?_,
      fun k _ hprompt hlane hecho hseat htag hkeys => ?_⟩⟩
  · have hserve : serveFetch (accepted flags s) = (.idle, accepted flags s) :=
      serveFetch_of_no_offer hidle fun i hi => hoffers i ((offers_accepted flags s i).mp hi)
    rw [exec_fetch_of_idle hidle hnew, hserve]
    exact congrArg Host.Outcome.next (settle_link hl rfl)
  · have hrepeat : repeatReply s = { s with link := { s.link with
        fetched := true, duplicates := counted s.link.duplicates, reply := fetchReplyBytes s.link.lastReply } } := by
      simp only [repeatReply, count_eq]
    rw [exec_fetch_of_duplicate hfresh hsequence, hrepeat]
    exact congrArg Host.Outcome.next (settle_link hl rfl)
  · intro lost
    have hcomplete : complete .lost s = lost := complete_systemSpoken hu hsystem hlane hseat hcontent hkept .lost
    have hsettle : ∀ l, settle { lost with link := l } = { lost with link := l, pins := pinLevels { lost with link := l } } :=
      fun l => settle_of_seats hl rfl fun k => ⟨rfl, rfl⟩
    refine ⟨exec_fetch_afterwards hfresh hcomplete rfl (hsettle lost.link), fun hoffers => ?_⟩
    have hserve : serveFetch (accepted flags lost) = (.idle, accepted flags lost) :=
      serveFetch_of_no_offer (s := accepted flags lost) rfl fun i hi => hoffers i ((offers_accepted flags lost i).mp hi)
    have hexec := exec_fetch_of_new (s := s) (.inl hfresh)
    rw [acceptFetch_of_fresh hfresh, hcomplete, hserve] at hexec
    exact ⟨_, hexec.trans (congrArg Host.Outcome.next (hsettle _)), rfl⟩
  · have hcomplete := complete_promptSpoken hlane hseat hcontent hkept hu hprompt htag .lost
    have hidle : (takeKeys k (tellSeat e (promptSpoken k h s))).link.inFlight = none := by
      have hlink : (takeKeys k (tellSeat e (promptSpoken k h s))).link = (promptSpoken k h s).link := by simp
      rw [hlink]
      rfl
    exact (spoken_promptSpoken hecho hkeys).seatIsTold hl hseat (idleTimer_of_prompt hlane hecho hseat hl)
      fun y _ _ hy => exec_fetch_afterwards hfresh hcomplete hidle hy

end Sys2Proof.Proofs.Fetch
end

section
/-! PROOFS. What a key does that a seat takes in PRESENT or ENTRY, without barge-in (R51, R53 to R58). -/
namespace Sys2Proof.Proofs.Keys
open Sys2Proof Sys2Proof.Machine Sys2Proof.Safety
open Sys2Proof.Proofs.Seats Sys2Proof.Proofs.Reports Sys2Proof.Proofs.Drill Sys2Proof.Proofs.Judge

/-! ## The dispatch -/

/-- A seat's context when a key has just been taken (R51). -/
def woken (c : SeatContext) : SeatContext :=
  { c with nudges := 0, idleTimer := c.idleTimer.map fun _ => c.settings.idleTimeout.toNat * 1000 }

/-- Seat k with another context. -/
def reseated (k : Seat) (c : SeatContext) (s : State) : State := { s with seats := s.seats.set k c }

theorem seat_reseated (k : Seat) (c : SeatContext) (s : State) : (reseated k c s).seat k = c := Pair.get_set_self ..

theorem target_reseated {k : Seat} {c : SeatContext} {s : State} (hword : c.currentWord = (s.seat k).currentWord) :
    (reseated k c s).target k = s.target k := target_congr rfl (by rw [seat_reseated, hword])

def woke (k : Seat) (s : State) : State := reseated k (woken (s.seat k)) s

theorem seat_woke (k : Seat) (s : State) : (woke k s).seat k = woken (s.seat k) := Pair.get_set_self ..

theorem target_woke (k : Seat) (s : State) : (woke k s).target k = s.target k :=
  target_congr rfl (by rw [seat_woke]; rfl)

section Dispatch
variable (k : Seat) (e : KeyEntry) (s : State)

theorem takeKey_mash (h : e.kind = .mash) : takeKey k e s = takeMash k (woke k s) := if_pos h

variable {e}

theorem takeKey_of_press (h : e.kind ≠ .mash) :
    takeKey k e s =
      if isLetterCode e.code then takeLetter k e.code (woke k s)
      else if e.code = keyErase then takeErase k (woke k s)
      else if e.code = keyHint then takeHint k (woke k s)
      else if e.code = keySayAgain then takeSayAgain k (woke k s)
      else if e.code = keyEnter then takeEnter k (woke k s)
      else woke k s := if_neg h

theorem takeKey_letter (h : e.kind ≠ .mash) (hlow : 1 ≤ e.code.toNat) (hhigh : e.code.toNat ≤ 27) :
    takeKey k e s = takeLetter k e.code (woke k s) := by
  have hletter : isLetterCode e.code = true := by simp only [isLetterCode, hlow, hhigh, decide_true, Bool.and_self]
  rw [takeKey_of_press k s h, if_pos hletter]

theorem takeKey_erase (h : e.kind ≠ .mash) (hcode : e.code = 32) : takeKey k e s = takeErase k (woke k s) := by
  rw [takeKey_of_press k s h, hcode]
  rfl

theorem takeKey_enter (h : e.kind ≠ .mash) (hcode : e.code = 33) : takeKey k e s = takeEnter k (woke k s) := by
  rw [takeKey_of_press k s h, hcode]
  rfl

theorem takeKey_hint (h : e.kind ≠ .mash) (hcode : e.code = 34) : takeKey k e s = takeHint k (woke k s) := by
  rw [takeKey_of_press k s h, hcode]
  rfl

theorem takeKey_sayAgain (h : e.kind ≠ .mash) (hcode : e.code = 35) : takeKey k e s = takeSayAgain k (woke k s) := by
  rw [takeKey_of_press k s h, hcode]
  rfl

end Dispatch

/-! ## A line and its image -/

/-- The image write after a seat in ENTRY has another line. -/
theorem writeKeeping_line {k : Seat} {c : SeatContext} {line : List Symbol} {s : State}
    (hword : c.currentWord = (s.seat k).currentWord) :
    writeImageKeepingVerdict k { s with seats := s.seats.set k { c with state := .entry, line := line } } =
      lineShown k c line s := writeKeeping_mapSeat (f := fun _ => { c with state := .entry, line := line }) hword

theorem queueBump_eq (k : Seat) (s : State) : queueBump k s = echoJoined k (.cue 2) s := queueEcho_eq k _ s

theorem queueBuzz_eq (k : Seat) (s : State) : queueBuzz k s = echoJoined k (.cue 1) s := queueEcho_eq k _ s

/-! ## LETTER -/

/-- The echo or cue of a typed letter (R53). -/
def letterSpoken (k : Seat) (letter : Byte) (mark : Mark) (s : State) : State :=
  if mark = .wrong then echoJoined k (.cue 1) s
  else if (s.seat k).settings.echo then echoJoined k (.letter letter) s
  else s

theorem letterSpoken_seats (k : Seat) (letter : Byte) (mark : Mark) (s : State) :
    (letterSpoken k letter mark s).seats = s.seats := by
  unfold letterSpoken
  split
  · rfl
  · split <;> rfl

/-- What a LETTER does once barge-in is done. -/
def letterTyped (k : Seat) (letter : Byte) (s : State) : State :=
  let c := s.seat k
  let mark := typedMark c.settings.check (s.target k) (c.line.length + 1) letter
  if c.line.length < 20 then
    lineShown k c (c.line ++ [{ letter := letter, origin := .typed, mark := mark }]) (letterSpoken k letter mark s)
  else
    lineShown k { c with overtyped := saturatingSucc c.overtyped } c.line (echoJoined k (.cue 2) s)

theorem takeLetter_eq (k : Seat) (letter : Byte) (s : State) :
    takeLetter k letter s = letterTyped k letter (bargeInIfOn k s) := by
  unfold takeLetter
  generalize bargeInIfOn k s = t
  simp only [letterTyped]
  by_cases hroom : (t.seat k).line.length < 20
  · rw [if_pos (c := (t.seat k).line.length < Config.lineSize) hroom, if_pos hroom]
    generalize typedMark _ _ _ _ = mark
    have hseat : (letterSpoken k letter mark t).seat k = t.seat k := by rw [State.seat, letterSpoken_seats]; rfl
    rw [← writeKeeping_line (by rw [hseat])]
    refine congrArg (writeImageKeepingVerdict k) ?_
    simp only [letterSpoken, queueBuzz_eq, queueEcho_eq]
    by_cases hwrong : mark = .wrong
    · simp only [if_pos hwrong]; rfl
    · simp only [if_neg hwrong]
      by_cases hecho : (t.seat k).settings.echo = true
      · simp only [if_pos hecho]; rfl
      · simp only [if_neg hecho]; rfl
  · rw [if_neg (c := (t.seat k).line.length < Config.lineSize) hroom, if_neg hroom, queueBump_eq]
    exact writeKeeping_line (s := echoJoined k (.cue 2) t)
      (c := { t.seat k with overtyped := saturatingSucc (t.seat k).overtyped }) rfl

theorem bargeInIfOn_off {k : Seat} {s : State} (h : (s.seat k).settings.bargeIn = false) : bargeInIfOn k s = s :=
  if_neg (Bool.eq_false_iff.mp h)

/-! ## HINT -/

/-- What a HINT does once barge-in is done. -/
def hintGiven (k : Seat) (s : State) : State :=
  let c := s.seat k
  let p := correctPrefix (s.attempt k) (s.target k)
  match (s.target k)[p]? with
  | some letter =>
    lineShown k { c with hints := saturatingSucc c.hints }
      (c.line.take p ++ [{ letter := letter, origin := .hinted, mark := .right }])
      (if c.settings.echo then echoJoined k (.letter letter) s else s)
  | none => lineShown k c (c.line.take p) (echoJoined k (.cue 2) s)

theorem takeHint_eq (k : Seat) (s : State) : takeHint k s = hintGiven k (bargeInIfOn k s) := by
  unfold takeHint hintGiven
  generalize bargeInIfOn k s = t
  simp only
  generalize correctPrefix (t.attempt k) (t.target k) = p
  cases hdrop : (t.target k).drop p with
  | nil =>
    have hnone : (t.target k)[p]? = none := List.getElem?_eq_none (List.drop_eq_nil_iff.mp hdrop)
    rw [hnone]
    simp only
    rw [queueBump_eq]
    exact writeKeeping_line (s := echoJoined k (.cue 2) t) (c := t.seat k) rfl
  | cons letter rest =>
    have hsome : (t.target k)[p]? = some letter := by rw [← List.head?_drop, hdrop]; rfl
    rw [hsome]
    simp only
    by_cases hecho : (t.seat k).settings.echo = true
    · simp only [if_pos hecho, queueEcho_eq]
      exact writeKeeping_line (s := echoJoined k (.letter letter) t)
        (c := { t.seat k with hints := saturatingSucc (t.seat k).hints }) rfl
    · simp only [if_neg hecho]
      exact writeKeeping_line (s := t) (c := { t.seat k with hints := saturatingSucc (t.seat k).hints }) rfl

/-- The letters that are right end where the letters first differ, or where the word ends (R77). -/
theorem correctPrefix_eq {letters target : List Byte} {p : Nat} (hp : p ≤ letters.length)
    (htake : letters.take p = target.take p)
    (hend : (∃ letter, target[p]? = some letter ∧ letters[p]? ≠ some letter) ∨ p = target.length) :
    correctPrefix letters target = p := by
  induction p generalizing letters target with
  | zero =>
    cases letters with
    | nil => rfl
    | cons x xs =>
      cases target with
      | nil => rfl
      | cons y ys =>
        obtain ⟨letter, hletter, hne⟩ := hend.resolve_right nofun
        refine if_neg fun hxy => hne ?_
        rw [hxy]
        exact hletter
  | succ p ih =>
    cases letters with
    | nil => exact absurd hp (Nat.not_succ_le_zero p)
    | cons x xs =>
      cases target with
      | nil => cases htake
      | cons y ys =>
        obtain ⟨hxy, hrest⟩ := List.cons.inj htake
        rw [correctPrefix, if_pos hxy]
        exact congrArg Nat.succ (ih (Nat.le_of_succ_le_succ hp) hrest (hend.imp_right Nat.succ.inj))

/-! ## ERASE and ENTER on an empty line, SAYAGAIN, MASH -/

theorem takeErase_empty {k : Seat} {s : State} (h : (s.seat k).line = []) : takeErase k s = echoJoined k (.cue 2) s := by
  rw [← queueBump_eq]
  exact if_pos (by rw [h]; rfl)

theorem takeErase_line {k : Seat} {s : State} (h : (s.seat k).line ≠ []) (hstate : (s.seat k).state = .entry) :
    takeErase k s = lineShown k (s.seat k) (s.seat k).line.dropLast s := by
  have herase : takeErase k s = writeImageKeepingVerdict k (s.mapSeat k fun c => { c with line := c.line.dropLast }) :=
    if_neg fun hempty => h (List.isEmpty_iff.mp hempty)
  rw [herase, ← writeKeeping_line rfl, ← hstate]
  rfl

theorem takeEnter_empty {k : Seat} {s : State} (h : (s.seat k).line = []) : takeEnter k s = echoJoined k (.cue 2) s := by
  rw [← queueBump_eq]
  exact if_pos (by rw [h]; rfl)

theorem any_drillPrompt_iff (k : Seat) (s : State) :
    (seatEntries k s).any (isDrillPrompt k) = true ↔
      ∃ e ∈ s.lane (.prompt k) ++ s.lane (.echo k), e.seat = some k ∧ e.origin = .drillPrompt := by
  simp only [List.any_eq_true, seatEntries, List.mem_filter, isDrillPrompt, Bool.and_eq_true, decide_eq_true_eq]
  exact ⟨fun ⟨e, ⟨he, _⟩, h⟩ => ⟨e, he, h⟩, fun ⟨e, he, h⟩ => ⟨e, ⟨he, h.1⟩, h⟩⟩

theorem takeSayAgain_playing {k : Seat} {s : State}
    (h : ∃ e ∈ s.lane (.prompt k) ++ s.lane (.echo k), e.seat = some k ∧ e.origin = .drillPrompt) :
    takeSayAgain k s = s := if_pos ((any_drillPrompt_iff k s).mpr h)

/-- What SAYAGAIN makes of a replay: counted, or a BUMP. -/
def replayCounted (k : Seat) : Bool × State → State
  | (true, t) => t.mapSeat k fun c => { c with replays := saturatingSucc c.replays }
  | (false, t) => queueBump k t

/-- SAYAGAIN while no DRILL_PROMPT of the seat waits or plays (R56). -/
theorem takeSayAgain_silent {k : Seat} {s : State} {w : WordIndex} (hword : (s.seat k).currentWord = some w)
    (h : ∀ e ∈ s.lane (.prompt k) ++ s.lane (.echo k), e.seat = some k → e.origin ≠ .drillPrompt) :
    takeSayAgain k s = replayCounted k (replayWord k (s.word w) s) := by
  have hsilent : ¬ (seatEntries k s).any (isDrillPrompt k) = true := fun hany => by
    obtain ⟨e, he, hseat, horigin⟩ := (any_drillPrompt_iff k s).mp hany
    exact h e he hseat horigin
  unfold takeSayAgain replayCounted
  rw [if_neg hsilent]
  simp only [hword] <;> rfl

theorem takeMash_eq (k : Seat) (s : State) :
    takeMash k s =
      { queueOrSkip k .drillFeedback s.lanes.feedback[6] s with
        reports := offered (queueOrSkip k .drillFeedback s.lanes.feedback[6] s) (.seatEvent k .mash) } := postEvent_eq _ _ _

/-! ## Once the seat's context is known -/

theorem typedMark_strict {target : List Byte} {n : Nat} {letter : Byte} :
    typedMark .strict target (n + 1) letter = if target[n]? = some letter then .right else .wrong := by
  rw [typedMark, strictMark, letterAt_of_pos (Nat.succ_pos n)]
  rfl

theorem lineShown_reseated {k : Seat} {c c' : SeatContext} {line : List Symbol} {s : State}
    (hword : c'.currentWord = (s.seat k).currentWord) : lineShown k c line (reseated k c' s) = lineShown k c line s := by
  simp only [lineShown, target_reseated hword]
  simp only [reseated, Pair.set_set]
  rfl

theorem letterSpoken_reseated {k : Seat} {c : SeatContext} {letter : Byte} {mark : Mark} {s : State}
    (hecho : c.settings.echo = (s.seat k).settings.echo) :
    letterSpoken k letter mark (reseated k c s) = reseated k c (letterSpoken k letter mark s) := by
  simp only [letterSpoken, seat_reseated, hecho]
  split
  · rfl
  · split <;> rfl

section Reseated
variable {k : Seat} {c : SeatContext} {s : State} (hword : c.currentWord = (s.seat k).currentWord)
variable (hecho : c.settings.echo = (s.seat k).settings.echo)

include hword hecho in
/-- A LETTER with room on the line, for a seat whose context has changed in other things. -/
theorem letterTyped_room {letter : Byte} {mark : Mark} (hroom : c.line.length < 20)
    (hmark : typedMark c.settings.check (s.target k) (c.line.length + 1) letter = mark) :
    letterTyped k letter (reseated k c s) =
      lineShown k c (c.line ++ [{ letter := letter, origin := .typed, mark := mark }]) (letterSpoken k letter mark s) := by
  have hseat : (letterSpoken k letter mark s).seat k = s.seat k := by rw [State.seat, letterSpoken_seats]; rfl
  simp only [letterTyped, seat_reseated, target_reseated hword, hmark, letterSpoken_reseated hecho]
  rw [if_pos hroom, lineShown_reseated (by rw [hseat, hword])]

include hword in
theorem letterTyped_full (letter : Byte) (hfull : 20 ≤ c.line.length) :
    letterTyped k letter (reseated k c s) =
      lineShown k { c with overtyped := saturatingSucc c.overtyped } c.line (echoJoined k (.cue 2) s) := by
  simp only [letterTyped, seat_reseated]
  rw [if_neg (Nat.not_lt_of_le hfull)]
  exact lineShown_reseated (s := echoJoined k (.cue 2) s) hword

theorem attempt_reseated : (reseated k c s).attempt k = c.line.map (·.letter) := by rw [State.attempt, seat_reseated]

include hword in
/-- A HINT while the word has a letter left. -/
theorem hintGiven_letter {p : Nat} {letter : Byte}
    (hprefix : correctPrefix (c.line.map (·.letter)) (s.target k) = p) (hletter : (s.target k)[p]? = some letter) :
    hintGiven k (reseated k c s) =
      lineShown k { c with hints := saturatingSucc c.hints }
        (c.line.take p ++ [{ letter := letter, origin := .hinted, mark := .right }])
        (if c.settings.echo then echoJoined k (.letter letter) s else s) := by
  simp only [hintGiven, seat_reseated, attempt_reseated, target_reseated hword, hprefix, hletter]
  by_cases hecho : c.settings.echo = true
  · simp only [if_pos hecho]
    exact lineShown_reseated (s := echoJoined k (.letter letter) s) hword
  · simp only [if_neg hecho]
    exact lineShown_reseated hword

include hword in
/-- A HINT when the word is all there. -/
theorem hintGiven_whole {p : Nat} (hprefix : correctPrefix (c.line.map (·.letter)) (s.target k) = p)
    (hnone : (s.target k)[p]? = none) :
    hintGiven k (reseated k c s) = lineShown k c (c.line.take p) (echoJoined k (.cue 2) s) := by
  simp only [hintGiven, seat_reseated, attempt_reseated, target_reseated hword, hprefix, hnone]
  exact lineShown_reseated (s := echoJoined k (.cue 2) s) hword

end Reseated

/-! ## SAYAGAIN with phrases that are there or missing -/

section Replay
variable {k : Seat} {r : WordRecord} {s : State}

theorem replayWord_prompt {g : Handle} (hprompt : r.prompt = some g) (hkept : (s.handle g).state = .kept)
    (hroom : (s.lane (.prompt k)).length < 4) :
    replayWord k r s = (true, queueOrSkip k .drillPrompt r.sentence (phraseQueued k g .drillPrompt s)) := by
  simp only [replayWord, hprompt, queueDrillPhrase_kept hkept hroom]

theorem replayWord_sentence {h : Handle}
    (hmissing : ∀ g, r.prompt = some g → (s.handle g).state ≠ .kept ∨ 4 ≤ (s.lane (.prompt k)).length)
    (hsentence : r.sentence = some h) (hkept : (s.handle h).state = .kept) (hroom : (s.lane (.prompt k)).length < 4) :
    replayWord k r s = (true, phraseQueued k h .drillPrompt s) := by
  simp only [replayWord, queueDrillPhrase_missing hmissing, hsentence, queueDrillPhrase_kept hkept hroom]

theorem replayWord_missing
    (hprompt : ∀ g, r.prompt = some g → (s.handle g).state ≠ .kept ∨ 4 ≤ (s.lane (.prompt k)).length)
    (hsentence : ∀ g, r.sentence = some g → (s.handle g).state ≠ .kept ∨ 4 ≤ (s.lane (.prompt k)).length) :
    replayWord k r s = (false, s) := by
  simp only [replayWord, queueDrillPhrase_missing hprompt, queueDrillPhrase_missing hsentence]

end Replay

theorem handle_phraseQueued (k : Seat) (g h : Handle) (origin : SpeechOrigin) (s : State) :
    ((phraseQueued k g origin s).handle h).state = (s.handle h).state := by
  have hhandle : (phraseQueued k g origin s).handle h =
      if h = g then { s.handle g with references := (s.handle g).references + 1 } else s.handle h :=
    Pages.handle_of_set rfl h
  rw [hhandle]
  split
  case isTrue hgh => rw [hgh]
  case isFalse => rfl

theorem lane_phraseQueued (k : Seat) (g : Handle) (origin : SpeechOrigin) (s : State) (i : LaneId) :
    (phraseQueued k g origin s).lane i =
      if i = .prompt k then s.lane (.prompt k) ++ [freshEntry s (.phrase g) origin (some k) none 0] else s.lane i :=
  State.lane_setLane s (.prompt k) i _

end Sys2Proof.Proofs.Keys
end

section
/-! PROOFS. Barge-in (R52, R125). -/
namespace Sys2Proof.Proofs.BargeIn
open Sys2Proof Sys2Proof.Machine Sys2Proof.Safety
open Sys2Proof.Proofs.Seats Sys2Proof.Proofs.Drill Sys2Proof.Proofs.Completion Sys2Proof.Proofs.Keys

/-! ## References given up one after another -/

/-- The reference of an entry is given up, if it has one. -/
def entryReleased (t : State) (e : SpeechEntry) : State :=
  match e.content with
  | .phrase h => releaseReference h t
  | .letter _ | .cue _ => t

theorem releaseReference_congr {h : Handle} {s t : State} (hp : t.phrases = s.phrases) :
    (releaseReference h t).phrases = (releaseReference h s).phrases := by
  simp only [releaseReference, returnPages]
  rw [apply_ite State.phrases, apply_ite State.phrases]
  simp only [State.handle, State.setHandle, hp]
  rfl

theorem entryReleased_congr {e : SpeechEntry} {s t : State} (hp : t.phrases = s.phrases) :
    (entryReleased t e).phrases = (entryReleased s e).phrases := by
  unfold entryReleased
  cases e.content with
  | phrase h => exact releaseReference_congr hp
  | letter _ => exact hp
  | cue _ => exact hp

theorem entryReleased_eq (e : SpeechEntry) (s : State) : entryReleased s e = { s with phrases := (entryReleased s e).phrases } := by
  unfold entryReleased
  cases e.content with
  | phrase h => exact releaseReference_phrases h s
  | letter _ => rfl
  | cue _ => rfl

theorem foldl_entryReleased_congr (es : List SpeechEntry) {s t : State} (hp : t.phrases = s.phrases) :
    (es.foldl entryReleased t).phrases = (es.foldl entryReleased s).phrases := by
  induction es generalizing s t with
  | nil => exact hp
  | cons e es ih => exact ih (entryReleased_congr hp)

theorem foldl_entryReleased_eq (es : List SpeechEntry) (s : State) :
    es.foldl entryReleased s = { s with phrases := (es.foldl entryReleased s).phrases } := by
  induction es generalizing s with
  | nil => rfl
  | cons e es ih =>
    rw [List.foldl_cons, ih (entryReleased s e)]
    generalize (es.foldl entryReleased (entryReleased s e)).phrases = phrases
    rw [entryReleased_eq e s]

/-! ## Entries that leave the prompt lane one after another -/

def erased (l : List SpeechEntry) (e : SpeechEntry) : List SpeechEntry := l.eraseP fun x => decide (x.id = e.id)

theorem erased_cons_of_ne {x e : SpeechEntry} {l : List SpeechEntry} (h : x.id ≠ e.id) :
    erased (x :: l) e = x :: erased l e := List.eraseP_cons_of_neg (by simp [h])

theorem foldl_erased_cons {x : SpeechEntry} {es : List SpeechEntry} (h : ∀ e ∈ es, x.id ≠ e.id) (l : List SpeechEntry) :
    es.foldl erased (x :: l) = x :: es.foldl erased l := by
  induction es generalizing l with
  | nil => rfl
  | cons e es ih =>
    obtain ⟨he, hes⟩ := List.forall_mem_cons.mp h
    rw [List.foldl_cons, erased_cons_of_ne he, ih hes, List.foldl_cons]

/-- Of entries with numbers of their own, those that leave are those that are not left. -/
theorem foldl_erased_filter {l : List SpeechEntry} (p : SpeechEntry → Bool) (h : (l.map (·.id)).Nodup) :
    (l.filter p).foldl erased l = l.filter fun e => !p e := by
  induction l with
  | nil => rfl
  | cons x l ih =>
    rw [List.map_cons, List.nodup_cons] at h
    obtain ⟨hx, hl⟩ := h
    cases hp : p x with
    | true =>
      have hhead : erased (x :: l) x = l := eraseP_head x l
      rw [List.filter_cons_of_pos hp, List.foldl_cons, hhead, ih hl, List.filter_cons_of_neg (by simp [hp])]
    | false =>
      have hne : ∀ e ∈ l.filter p, x.id ≠ e.id := fun e he hid =>
        hx (hid ▸ List.mem_map_of_mem (List.mem_filter.mp he).1)
      rw [List.filter_cons_of_neg (by simp [hp]), foldl_erased_cons hne, ih hl, List.filter_cons_of_pos (by simp [hp])]

/-- Some entries have left a seat's prompt lane, and nobody has been told. -/
def cutEntries (k : Seat) (es : List SpeechEntry) (s : State) : State :=
  { s with
    phrases := (es.foldl entryReleased s).phrases,
    lanes := { s.lanes with prompt := s.lanes.prompt.set k (es.foldl erased (s.lane (.prompt k))) } }

theorem cutEntries_nil (k : Seat) (s : State) : cutEntries k [] s = s := by cases k <;> rfl

theorem cutEntries_cons (k : Seat) (e : SpeechEntry) (es : List SpeechEntry) (s : State) :
    cutEntries k es (cutEntries k [e] s) = cutEntries k (e :: es) s := by
  have hphrases : (es.foldl entryReleased (cutEntries k [e] s)).phrases = ((e :: es).foldl entryReleased s).phrases :=
    foldl_entryReleased_congr es rfl
  have hlane : (cutEntries k [e] s).lane (.prompt k) = erased (s.lane (.prompt k)) e := Pair.get_set_self ..
  rw [cutEntries, hphrases, hlane]
  simp only [cutEntries, Pair.set_set]
  rfl

theorem leaveLane_cut {k : Seat} {o : SpeechOutcome} {e : SpeechEntry} (htag : e.tag = 0) (s : State) :
    leaveLane (.prompt k) o e s = cutEntries k [e] s := by
  rw [leaveLane_untagged htag]
  change (entryReleased s e).setLane (.prompt k) (erased (s.lane (.prompt k)) e) = _
  rw [entryReleased_eq]
  rfl

/-! ## Telling the seat -/

theorem promptDone_present {k : Seat} {s : State} (h : (s.seat k).state = .present) :
    promptDone k s = lineShown k { s.seat k with presentationPrompt := none } (s.seat k).line s := by
  rw [promptDone, h]
  exact writeKeeping_mapSeat rfl

theorem promptDone_entry {k : Seat} {s : State} (h : (s.seat k).state = .entry) :
    promptDone k s = reseated k { s.seat k with presentationPrompt := none } s := by
  rw [promptDone, h]
  rfl

section Word
variable {k : Seat} {s : State} (hstate : (s.seat k).state = .present ∨ (s.seat k).state = .entry)
include hstate

/-- What the end of the presentation prompt makes of a seat in a word. -/
theorem seat_promptDone :
    (promptDone k s).seat k = { s.seat k with presentationPrompt := none, state := .entry } := by
  rcases hstate with h | h
  · rw [promptDone_present h]
    exact Pair.get_set_self ..
  · rw [promptDone_entry h, seat_reseated, ← h]

theorem promptDone_cutEntries (es : List SpeechEntry) :
    promptDone k (cutEntries k es s) = cutEntries k es (promptDone k s) := by
  have hphrases : ∀ c line, (es.foldl entryReleased (lineShown k c line s)).phrases = (es.foldl entryReleased s).phrases :=
    fun c line => foldl_entryReleased_congr es rfl
  have hphrases' : ∀ c, (es.foldl entryReleased (reseated k c s)).phrases = (es.foldl entryReleased s).phrases :=
    fun c => foldl_entryReleased_congr es rfl
  rcases hstate with h | h
  · rw [promptDone_present h, promptDone_present (s := cutEntries k es s) h, cutEntries, cutEntries, hphrases]
    rfl
  · rw [promptDone_entry h, promptDone_entry (s := cutEntries k es s) h, cutEntries, cutEntries, hphrases']
    rfl

end Word

/-- Some entries have left a seat's prompt lane, and the seat knows. -/
def cutTold (k : Seat) (es : List SpeechEntry) (s : State) : State :=
  if ∃ e ∈ es, (s.seat k).presentationPrompt = some e.id then promptDone k (cutEntries k es s) else cutEntries k es s

theorem tellSeat_cut {k : Seat} {e : SpeechEntry} {s : State} (htag : e.tag = 0) (hseat : e.seat = some k)
    (hfeedback : (s.seat k).reviewFeedback ≠ some e.id) :
    tellSeat e (leaveLane (.prompt k) .cut e s) =
      if (s.seat k).presentationPrompt = some e.id then promptDone k (cutEntries k [e] s) else cutEntries k [e] s := by
  have hsame : (cutEntries k [e] s).seat k = s.seat k := rfl
  rw [leaveLane_cut htag]
  simp only [tellSeat, hseat, hsame, if_neg hfeedback]

/-- Untagged entries of a seat in a word leave, and the seat is told of each. -/
theorem leaveEach_cut {k : Seat} {es : List SpeechEntry} {s : State}
    (hstate : (s.seat k).state = .present ∨ (s.seat k).state = .entry)
    (hes : ∀ e ∈ es, e.tag = 0 ∧ e.seat = some k ∧ (s.seat k).reviewFeedback ≠ some e.id) :
    leaveEach (.prompt k) .cut tellSeat es s = cutTold k es s := by
  induction es generalizing s with
  | nil =>
    rw [cutTold, if_neg (by simp), cutEntries_nil]
    rfl
  | cons e es ih =>
    obtain ⟨⟨htag, hseat, hfeedback⟩, hrest⟩ := List.forall_mem_cons.mp hes
    have hstep : leaveEach (.prompt k) .cut tellSeat (e :: es) s
        = leaveEach (.prompt k) .cut tellSeat es (tellSeat e (leaveLane (.prompt k) .cut e s)) := rfl
    rw [hstep, tellSeat_cut htag hseat hfeedback]
    by_cases hprompt : (s.seat k).presentationPrompt = some e.id
    · have hdone := seat_promptDone (s := cutEntries k [e] s) hstate
      rw [if_pos hprompt, ih (by rw [hdone]; exact .inr rfl) (by rw [hdone]; exact hrest), cutTold, cutTold,
        if_neg (by rw [hdone]; nofun), if_pos ⟨e, List.mem_cons_self, hprompt⟩, ← cutEntries_cons k e es s,
        promptDone_cutEntries (s := cutEntries k [e] s) hstate]
    · have hiff : (∃ x ∈ e :: es, (s.seat k).presentationPrompt = some x.id)
          ↔ ∃ x ∈ es, (s.seat k).presentationPrompt = some x.id := by
        simp only [List.mem_cons, or_and_right, exists_or, exists_eq_left, hprompt, false_or]
      rw [if_neg hprompt, ih (s := cutEntries k [e] s) hstate hrest, cutTold, cutTold, cutEntries_cons]
      exact ite_congr (propext hiff.symm) (fun _ => rfl) fun _ => rfl

/-! ## Barge-in as the statement has it -/

theorem bargedOver_eq (k : Seat) (e : SpeechEntry) :
    (decide (e.state = .queued) && isDrillPrompt k e) = bargedOver k e := by
  simp only [isDrillPrompt, bargedOver, Bool.decide_and]

/-- The seat's queued DRILL_PROMPTs have left as CUT (R125). -/
theorem promptsCut_eq {k : Seat} {s : State} (hstate : (s.seat k).state = .present ∨ (s.seat k).state = .entry)
    (hids : ((s.lane (.prompt k)).map (·.id)).Nodup) :
    cutTold k ((s.lane (.prompt k)).filter (bargedOver k)) s = promptsCut k s := by
  have hleft : cutEntries k ((s.lane (.prompt k)).filter (bargedOver k)) s =
      { ((s.lane (.prompt k)).filter (bargedOver k)).foldl entryReleased s with
        lanes :=
          { s.lanes with prompt := s.lanes.prompt.set k ((s.lane (.prompt k)).filter fun e => !bargedOver k e) } } := by
    rw [cutEntries, foldl_erased_filter _ hids]
    conv => rhs; rw [foldl_entryReleased_eq]
  have hsame : (cutEntries k ((s.lane (.prompt k)).filter (bargedOver k)) s).seat k = s.seat k := rfl
  have hdone : promptDone k (cutEntries k ((s.lane (.prompt k)).filter (bargedOver k)) s) =
      if (s.seat k).state = .present then
        lineShown k { s.seat k with presentationPrompt := none } (s.seat k).line
          (cutEntries k ((s.lane (.prompt k)).filter (bargedOver k)) s)
      else reseated k { s.seat k with presentationPrompt := none }
        (cutEntries k ((s.lane (.prompt k)).filter (bargedOver k)) s) := by
    rcases hstate with h | h
    · rw [if_pos h]
      exact promptDone_present h
    · rw [if_neg (by rw [h]; nofun)]
      exact promptDone_entry h
  have hcut : promptsCut k s =
      let left : State :=
        { ((s.lane (.prompt k)).filter (bargedOver k)).foldl entryReleased s with
          lanes :=
            { s.lanes with prompt := s.lanes.prompt.set k ((s.lane (.prompt k)).filter fun e => !bargedOver k e) } }
      let told : SeatContext := { s.seat k with presentationPrompt := none }
      if ∃ e ∈ (s.lane (.prompt k)).filter (bargedOver k), (s.seat k).presentationPrompt = some e.id then
        if (s.seat k).state = .present then lineShown k told (s.seat k).line left
        else { left with seats := s.seats.set k told }
      else left := rfl
  rw [hcut, ← hleft, cutTold, hdone]
  rfl

/-- An entry in flight that is no DRILL_PROMPT of the seat in STREAMING keeps its mark. -/
theorem markCutPending_of_not {which : SpeechEntry → Bool} {s : State}
    (h : ∀ e, inFlightEntry s = some e → (decide (e.state = .streaming) && which e) = false) : markCutPending which s = s := by
  unfold markCutPending
  cases he : inFlightEntry s with
  | none => rfl
  | some e => exact if_neg (by rw [h e he]; exact Bool.false_ne_true)

theorem markCutPending_of {which : SpeechEntry → Bool} {s : State} {u : Utterance} {e : SpeechEntry}
    (hu : s.link.inFlight = some u) (hhead : (s.lane u.lane).head? = some e) (hstreaming : e.state = .streaming)
    (hwhich : which e = true) :
    markCutPending which s = s.setLane u.lane ({ e with cutPending := true } :: (s.lane u.lane).tail) := by
  have he : inFlightEntry s = some e := by rw [inFlightEntry, hu]; exact hhead
  simp only [markCutPending, he, hstreaming, hwhich, decide_true, Bool.and_self, if_true, setInFlightEntry, hu]

section Cut
variable {k : Seat} {s : State} (hstate : (s.seat k).state = .present ∨ (s.seat k).state = .entry)
include hstate

theorem cutTold_frame (es : List SpeechEntry) :
    (cutTold k es s).link = s.link ∧ (cutTold k es s).lanes = (cutEntries k es s).lanes
      ∧ ((cutTold k es s).seat k).settings = (s.seat k).settings := by
  unfold cutTold
  split
  · refine ⟨by simp [cutEntries], by simp, ?_⟩
    rw [seat_promptDone (s := cutEntries k es s) hstate]
    rfl
  · exact ⟨rfl, rfl, rfl⟩

/-- Taking note of the key comes to the same before barge-in and after it. -/
theorem cutTold_woke (es : List SpeechEntry) : cutTold k es (woke k s) = woke k (cutTold k es s) := by
  have hcut : cutEntries k es (woke k s) = woke k (cutEntries k es s) := by
    rw [cutEntries, foldl_entryReleased_congr es (s := s) (t := woke k s) rfl]
    rfl
  have hdone : promptDone k (woke k (cutEntries k es s)) = woke k (promptDone k (cutEntries k es s)) := by
    have hseat := seat_woke k (cutEntries k es s)
    rcases hstate with h | h
    · rw [promptDone_present (s := cutEntries k es s) h, promptDone_present (by rw [hseat]; exact h), hseat, woke,
        lineShown_reseated (s := cutEntries k es s) (c' := woken ((cutEntries k es s).seat k)) rfl]
      simp only [woke, reseated, lineShown, State.seat, Pair.get_set_self, Pair.set_set]
      rfl
    · rw [promptDone_entry (s := cutEntries k es s) h, promptDone_entry (by rw [hseat]; exact h), hseat]
      simp only [woke, reseated, State.seat, Pair.get_set_self, Pair.set_set]
      rfl
  have hcond : (∃ e ∈ es, ((woke k s).seat k).presentationPrompt = some e.id)
      ↔ ∃ e ∈ es, (s.seat k).presentationPrompt = some e.id := by
    rw [seat_woke]
    rfl
  rw [cutTold, cutTold, hcut, hdone, apply_ite (woke k)]
  exact ite_congr (propext hcond) (fun _ => rfl) fun _ => rfl

end Cut

theorem markCutPending_woke (k : Seat) (which : SpeechEntry → Bool) (s : State) :
    markCutPending which (woke k s) = woke k (markCutPending which s) := by
  have hentry : inFlightEntry (woke k s) = inFlightEntry s := rfl
  unfold markCutPending
  rw [hentry]
  cases inFlightEntry s with
  | none => rfl
  | some e =>
    have hlink : (woke k s).link = s.link := rfl
    simp only [setInFlightEntry, hlink]
    cases s.link.inFlight with
    | none => simp only [ite_self]
    | some u => simp only [apply_ite (woke k)]; rfl

section Told
variable {k : Seat} {s : State} (hstate : (s.seat k).state = .present ∨ (s.seat k).state = .entry)
variable (haccounted : SpeechAccounted s)
variable (hes : ∀ e ∈ s.lane (.prompt k), bargedOver k e = true → e.tag = 0 ∧ (s.seat k).reviewFeedback ≠ some e.id)
include hstate haccounted

theorem lane_promptsCut (i : LaneId) :
    (promptsCut k s).lane i = if i = .prompt k then (s.lane (.prompt k)).filter (fun e => !bargedOver k e) else s.lane i := by
  rw [← promptsCut_eq hstate (haccounted.distinct _), State.lane, (cutTold_frame hstate _).2.1, cutEntries,
    foldl_erased_filter _ (haccounted.distinct _)]
  exact State.lane_setLane s (.prompt k) i _

theorem promptsCut_frame :
    (promptsCut k s).link = s.link ∧ ((promptsCut k s).seat k).settings = (s.seat k).settings := by
  rw [← promptsCut_eq hstate (haccounted.distinct _)]
  exact ⟨(cutTold_frame hstate _).1, (cutTold_frame hstate _).2.2⟩

include hes in
/-- Barge-in after a key has been noted (R51, R52). -/
theorem bargeIn_woke : bargeIn k (woke k s) = woke k (markCutPending (isDrillPrompt k) (promptsCut k s)) := by
  have hqueued : queuedIn (.prompt k) (isDrillPrompt k) (woke k s) = (s.lane (.prompt k)).filter (bargedOver k) :=
    congrArg (fun p => (s.lane (.prompt k)).filter p) (funext (bargedOver_eq k))
  have hout : ∀ e ∈ (s.lane (.prompt k)).filter (bargedOver k),
      e.tag = 0 ∧ e.seat = some k ∧ ((woke k s).seat k).reviewFeedback ≠ some e.id := fun e he => by
    obtain ⟨hmem, hbarged⟩ := List.mem_filter.mp he
    obtain ⟨htag, hfeedback⟩ := hes e hmem hbarged
    rw [seat_woke]
    exact ⟨htag, (of_decide_eq_true hbarged).2.1, hfeedback⟩
  rw [bargeIn, hqueued, leaveEach_cut (by rw [seat_woke]; exact hstate) hout, cutTold_woke hstate,
    promptsCut_eq hstate (haccounted.distinct _), markCutPending_woke]

/-- A head that is not queued stays the head. -/
theorem head_promptsCut {i : LaneId} {e : SpeechEntry} {rest : List SpeechEntry} (hlane : s.lane i = e :: rest)
    (hqueued : e.state ≠ .queued) : ((promptsCut k s).lane i).head? = some e := by
  rw [lane_promptsCut hstate haccounted]
  split
  case isTrue hi =>
    have hstays : bargedOver k e = false := decide_eq_false fun h => hqueued h.1
    rw [← hi, hlane, List.filter_cons_of_pos (by rw [hstays]; rfl)]
    rfl
  case isFalse => rw [hlane]; rfl

/-- With nothing of the seat to cut in flight, barge-in is the queued prompts alone. -/
theorem markCutPending_promptsCut (h : ∀ u e rest, s.link.inFlight = some u → s.lane u.lane = e :: rest →
      ¬ (e.state = .streaming ∧ e.seat = some k ∧ e.origin = .drillPrompt) ∧ e.state ≠ .queued) :
    markCutPending (isDrillPrompt k) (promptsCut k s) = promptsCut k s := by
  refine markCutPending_of_not fun e he => ?_
  rw [inFlightEntry, (promptsCut_frame hstate haccounted).1] at he
  cases hu : s.link.inFlight with
  | none => rw [hu] at he; cases he
  | some u =>
    rw [hu] at he
    simp only at he
    cases hlane : s.lane u.lane with
    | nil =>
      rw [lane_promptsCut hstate haccounted] at he
      split at he
      case isTrue hi => rw [← hi, hlane] at he; cases he
      case isFalse => rw [hlane] at he; cases he
    | cons e' rest =>
      obtain ⟨hnot, hqueued⟩ := h u e' rest hu hlane
      rw [head_promptsCut hstate haccounted hlane hqueued] at he
      cases he
      simp only [isDrillPrompt, ← Bool.decide_and]
      exact decide_eq_false hnot

/-- The seat's own prompt in flight is marked (R113, R125). -/
theorem markCutPending_promptsCut_own {u : Utterance} {e : SpeechEntry} {rest : List SpeechEntry}
    (hu : s.link.inFlight = some u) (hprompt : u.lane = .prompt k) (hlane : s.lane (.prompt k) = e :: rest)
    (hstreaming : e.state = .streaming) (hseat : e.seat = some k) (horigin : e.origin = .drillPrompt) :
    markCutPending (isDrillPrompt k) (promptsCut k s) =
      { promptsCut k s with
        lanes :=
          { (promptsCut k s).lanes with
            prompt :=
              s.lanes.prompt.set k ({ e with cutPending := true } :: ((promptsCut k s).lane (.prompt k)).tail) } } := by
  have hhead := head_promptsCut hstate haccounted hlane (by rw [hstreaming]; nofun)
  have hprompts : ∀ x, (promptsCut k s).lanes.prompt.set k x = s.lanes.prompt.set k x := fun x => by
    rw [← promptsCut_eq hstate (haccounted.distinct _), (cutTold_frame hstate _).2.1]
    exact Pair.set_set ..
  rw [markCutPending_of (u := u) (by rw [(promptsCut_frame hstate haccounted).1]; exact hu) (by rw [hprompt]; exact hhead)
    hstreaming (by simp only [isDrillPrompt, hseat, horigin]; decide), hprompt, ← hprompts]
  rfl

end Told

/-! ## A letter and a hint once barge-in is done -/

/-- Seat k with its barge-in setting on or off. -/
def withBargeIn (k : Seat) (on : Bool) (s : State) : State :=
  { s with seats := s.seats.set k { s.seat k with settings := { (s.seat k).settings with bargeIn := on } } }

theorem withBargeIn_lineShown {k : Seat} {c : SeatContext} (line : List Symbol) (s : State)
    (h : c.settings.bargeIn = true) :
    withBargeIn k true (lineShown k { c with settings := { c.settings with bargeIn := false } } line s) =
      lineShown k c line s := by
  have hsettings : ({ c.settings with bargeIn := true } : Settings) = c.settings := by rw [← h]
  simp only [withBargeIn, lineShown, State.seat, Pair.get_set_self, Pair.set_set, hsettings]

/-- The context of a seat that has taken a key, with its barge-in setting off. -/
def wokenOff (c : SeatContext) : SeatContext := { woken c with settings := { c.settings with bargeIn := false } }

theorem woke_withBargeIn (k : Seat) (s : State) :
    woke k (withBargeIn k false s) = reseated k (wokenOff (s.seat k)) s := by
  simp only [woke, withBargeIn, reseated, State.seat, Pair.get_set_self, Pair.set_set]
  rfl

section Acts
variable {k : Seat} {s : State} (h : (s.seat k).settings.bargeIn = true)
include h

theorem letterTyped_bargeIn (letter : Byte) :
    letterTyped k letter (woke k s) = withBargeIn k true (letterTyped k letter (woke k (withBargeIn k false s))) := by
  rw [woke_withBargeIn]
  by_cases hroom : (s.seat k).line.length < 20
  · rw [woke, letterTyped_room (c := woken (s.seat k)) (s := s) rfl rfl hroom rfl,
      letterTyped_room (c := wokenOff (s.seat k)) (s := s) rfl rfl hroom rfl]
    exact (withBargeIn_lineShown (c := woken (s.seat k)) _ _ h).symm
  · have hfull := Nat.le_of_not_lt hroom
    rw [woke, letterTyped_full (c := woken (s.seat k)) (s := s) rfl letter hfull,
      letterTyped_full (c := wokenOff (s.seat k)) (s := s) rfl letter hfull]
    exact (withBargeIn_lineShown
      (c := { woken (s.seat k) with overtyped := saturatingSucc (s.seat k).overtyped }) _ _ h).symm

theorem hintGiven_bargeIn :
    hintGiven k (woke k s) = withBargeIn k true (hintGiven k (woke k (withBargeIn k false s))) := by
  rw [woke_withBargeIn]
  cases hletter : (s.target k)[correctPrefix ((s.seat k).line.map (·.letter)) (s.target k)]? with
  | some letter =>
    rw [woke, hintGiven_letter (c := woken (s.seat k)) (s := s) rfl rfl hletter,
      hintGiven_letter (c := wokenOff (s.seat k)) (s := s) rfl rfl hletter]
    exact (withBargeIn_lineShown (c := { woken (s.seat k) with hints := saturatingSucc (s.seat k).hints }) _ _ h).symm
  | none =>
    rw [woke, hintGiven_whole (c := woken (s.seat k)) (s := s) rfl rfl hletter,
      hintGiven_whole (c := wokenOff (s.seat k)) (s := s) rfl rfl hletter]
    exact (withBargeIn_lineShown (c := woken (s.seat k)) _ _ h).symm

end Acts

/-- A LETTER or a HINT with barge-in on acts like one with it off once barge-in is done. -/
theorem takeKey_bargeIn {k : Seat} {e : KeyEntry} {s x : State} (hbarge : (s.seat k).settings.bargeIn = true)
    (hsettings : (x.seat k).settings = (s.seat k).settings) (hkind : e.kind ≠ .mash)
    (hcode : (1 ≤ e.code.toNat ∧ e.code.toNat ≤ 27) ∨ e.code = 34) (hdone : bargeIn k (woke k s) = woke k x) :
    takeKey k e s = withBargeIn k true (takeKey k e (withBargeIn k false x)) := by
  have hx : (x.seat k).settings.bargeIn = true := by rw [hsettings, hbarge]
  have hon : bargeInIfOn k (woke k s) = woke k x := (if_pos (by rw [seat_woke]; exact hbarge)).trans hdone
  have hoff : bargeInIfOn k (woke k (withBargeIn k false x)) = woke k (withBargeIn k false x) :=
    bargeInIfOn_off (by rw [woke_withBargeIn, seat_reseated]; rfl)
  rcases hcode with ⟨hlow, hhigh⟩ | hhint
  · rw [takeKey_letter k s hkind hlow hhigh, takeKey_letter k _ hkind hlow hhigh, takeLetter_eq, takeLetter_eq, hon, hoff]
    exact letterTyped_bargeIn hx e.code
  · rw [takeKey_hint k s hkind hhint, takeKey_hint k _ hkind hhint, takeHint_eq, takeHint_eq, hon, hoff]
    exact hintGiven_bargeIn hx

end Sys2Proof.Proofs.BargeIn
end

section
/-! PROOFS. O54: every key a seat takes in PRESENT or ENTRY (R51 to R58). -/
namespace Sys2Proof.Proofs.TakenKeys
open Sys2Proof Sys2Proof.Machine Sys2Proof.Safety
open Sys2Proof.Proofs.Seats Sys2Proof.Proofs.Reports Sys2Proof.Proofs.Drill Sys2Proof.Proofs.Keys Sys2Proof.Proofs.BargeIn

theorem letterSpoken_right {k : Seat} {letter : Byte} {mark : Mark} {s : State} (h : mark ≠ .wrong) :
    letterSpoken k letter mark s = if (s.seat k).settings.echo then echoJoined k (.letter letter) s else s := if_neg h

theorem letterSpoken_wrong (k : Seat) (letter : Byte) (s : State) :
    letterSpoken k letter .wrong s = echoJoined k (.cue 1) s := if_pos rfl

section Clauses
variable {k : Seat} {e : KeyEntry} {s : State} (hkind : e.kind ≠ .mash)
include hkind

section Letter
variable (hlow : 1 ≤ e.code.toNat) (hhigh : e.code.toNat ≤ 27) (hbarge : (s.seat k).settings.bargeIn = false)
include hlow hhigh hbarge

theorem takeKey_letter_off : takeKey k e s = letterTyped k e.code (woke k s) := by
  rw [takeKey_letter k s hkind hlow hhigh, takeLetter_eq, bargeInIfOn_off (by rw [seat_woke]; exact hbarge)]

theorem takeKey_letter_room {mark : Mark} (hroom : (s.seat k).line.length < 20)
    (hmark : typedMark (s.seat k).settings.check (s.target k) ((s.seat k).line.length + 1) e.code = mark) :
    takeKey k e s =
      lineShown k (woken (s.seat k)) ((s.seat k).line ++ [{ letter := e.code, origin := .typed, mark := mark }])
        (letterSpoken k e.code mark s) := by
  rw [takeKey_letter_off hkind hlow hhigh hbarge, woke,
    letterTyped_room (c := woken (s.seat k)) (s := s) rfl rfl hroom hmark]
  rfl

theorem takeKey_letter_full (hfull : 20 ≤ (s.seat k).line.length) :
    takeKey k e s =
      lineShown k
        { woken (s.seat k) with
          overtyped := if (s.seat k).overtyped = 255 then 255 else (s.seat k).overtyped + 1 }
        (s.seat k).line (echoJoined k (.cue 2) s) := by
  rw [takeKey_letter_off hkind hlow hhigh hbarge, woke, letterTyped_full (c := woken (s.seat k)) (s := s) rfl _ hfull,
    saturatingSucc_byte]
  rfl

end Letter

section Hint
variable (hcode : e.code = 34) (hbarge : (s.seat k).settings.bargeIn = false) {p : Nat}
variable (hp : p ≤ (s.seat k).line.length)
variable (htake : ((s.seat k).line.map (·.letter)).take p = (s.target k).take p)
include hcode hbarge

theorem takeKey_hint_off : takeKey k e s = hintGiven k (woke k s) := by
  rw [takeKey_hint k s hkind hcode, takeHint_eq, bargeInIfOn_off (by rw [seat_woke]; exact hbarge)]

include hp htake

theorem takeKey_hint_letter {letter : Byte} (hletter : (s.target k)[p]? = some letter)
    (hdiffers : ((s.seat k).line.map (·.letter))[p]? ≠ some letter) :
    takeKey k e s =
      lineShown k { woken (s.seat k) with hints := if (s.seat k).hints = 255 then 255 else (s.seat k).hints + 1 }
        ((s.seat k).line.take p ++ [{ letter := letter, origin := .hinted, mark := .right }])
        (if (s.seat k).settings.echo then echoJoined k (.letter letter) s else s) := by
  have hprefix := correctPrefix_eq ((List.length_map _).symm ▸ hp) htake (.inl ⟨letter, hletter, hdiffers⟩)
  rw [takeKey_hint_off hkind hcode hbarge, woke,
    hintGiven_letter (c := woken (s.seat k)) (s := s) rfl hprefix hletter, saturatingSucc_byte]
  rfl

theorem takeKey_hint_whole (hwhole : p = (s.target k).length) :
    takeKey k e s = lineShown k (woken (s.seat k)) ((s.seat k).line.take p) (echoJoined k (.cue 2) s) := by
  have hprefix := correctPrefix_eq ((List.length_map _).symm ▸ hp) htake (.inr hwhole)
  rw [takeKey_hint_off hkind hcode hbarge, woke,
    hintGiven_whole (c := woken (s.seat k)) (s := s) rfl hprefix (List.getElem?_eq_none (Nat.le_of_eq hwhole.symm))]
  rfl

end Hint

theorem takeKey_erase_empty (hcode : e.code = 32) (hline : (s.seat k).line = []) :
    takeKey k e s = reseated k (woken (s.seat k)) (echoJoined k (.cue 2) s) := by
  rw [takeKey_erase k s hkind hcode, takeErase_empty (by rw [seat_woke]; exact hline)]
  rfl

theorem takeKey_enter_empty (hcode : e.code = 33) (hline : (s.seat k).line = []) :
    takeKey k e s = reseated k (woken (s.seat k)) (echoJoined k (.cue 2) s) := by
  rw [takeKey_enter k s hkind hcode, takeEnter_empty (by rw [seat_woke]; exact hline)]
  rfl

theorem takeKey_erase_line (hcode : e.code = 32) (hline : (s.seat k).line ≠ []) (hstate : (s.seat k).state = .entry) :
    takeKey k e s = lineShown k (woken (s.seat k)) (s.seat k).line.dropLast s := by
  rw [takeKey_erase k s hkind hcode, takeErase_line (by rw [seat_woke]; exact hline) (by rw [seat_woke]; exact hstate),
    seat_woke, woke, lineShown_reseated (c' := woken (s.seat k)) rfl]
  rfl

section SayAgain
variable (hcode : e.code = 35)
include hcode

theorem takeKey_sayAgain_playing
    (h : ∃ e ∈ s.lane (.prompt k) ++ s.lane (.echo k), e.seat = some k ∧ e.origin = .drillPrompt) :
    takeKey k e s = woke k s := by
  rw [takeKey_sayAgain k s hkind hcode, takeSayAgain_playing (s := woke k s) h]

variable {w : WordIndex} (hword : (s.seat k).currentWord = some w)
variable (hsilent : ∀ e ∈ s.lane (.prompt k) ++ s.lane (.echo k), e.seat = some k → e.origin ≠ .drillPrompt)
include hword hsilent

theorem takeKey_sayAgain_silent :
    takeKey k e s = replayCounted k (replayWord k (s.word w) (woke k s)) := by
  rw [takeKey_sayAgain k s hkind hcode, takeSayAgain_silent (s := woke k s) (w := w) (by rw [seat_woke]; exact hword) hsilent]
  rfl

/-- A replay that queues something is counted. -/
theorem takeKey_sayAgain_replayed {t : State} (hreplay : replayWord k (s.word w) (woke k s) = (true, woke k t))
    (hseats : t.seats = s.seats) :
    takeKey k e s =
      reseated k
        { woken (s.seat k) with replays := if (s.seat k).replays = 255 then 255 else (s.seat k).replays + 1 } t := by
  have hseat : t.seat k = s.seat k := by rw [State.seat, hseats]; rfl
  rw [takeKey_sayAgain_silent hkind hcode hword hsilent, hreplay]
  simp only [replayCounted, State.mapSeat, State.setSeat, seat_woke, hseat, saturatingSucc_byte]
  simp only [woke, reseated, Pair.set_set]
  rfl

theorem takeKey_sayAgain_missing (hreplay : replayWord k (s.word w) (woke k s) = (false, woke k s)) :
    takeKey k e s = reseated k (woken (s.seat k)) (echoJoined k (.cue 2) s) := by
  rw [takeKey_sayAgain_silent hkind hcode hword hsilent, hreplay]
  exact queueBump_eq k _

end SayAgain

end Clauses

theorem takeKey_mash_kept {k : Seat} {e : KeyEntry} {s : State} {h : Handle} (hkind : e.kind = .mash)
    (hslot : s.lanes.feedback[6] = some h) (hkept : (s.handle h).state = .kept) (hroom : (s.lane (.prompt k)).length < 4) :
    takeKey k e s =
      { phraseQueued k h .drillFeedback s with
        seats := s.seats.set k (woken (s.seat k)), reports := offered s (.seatEvent k .mash) } := by
  have hjoins : queueOrSkip k .drillFeedback (woke k s).lanes.feedback[6] (woke k s)
      = phraseQueued k h .drillFeedback (woke k s) :=
    (congrArg (queueOrSkip k .drillFeedback · (woke k s)) hslot).trans (queueOrSkip_kept hkept hroom)
  rw [takeKey_mash k e s hkind, takeMash_eq, hjoins]
  rfl

theorem takeKey_mash_missing {k : Seat} {e : KeyEntry} {s : State} (hkind : e.kind = .mash)
    (hmissing : ∀ g, s.lanes.feedback[6] = some g → (s.handle g).state ≠ .kept ∨ 4 ≤ (s.lane (.prompt k)).length) :
    takeKey k e s =
      { s with seats := s.seats.set k (woken (s.seat k)), reports := offered s (.seatEvent k .mash) } := by
  have hskips : queueOrSkip k .drillFeedback (woke k s).lanes.feedback[6] (woke k s) = woke k s :=
    queueOrSkip_missing hmissing
  rw [takeKey_mash k e s hkind, takeMash_eq, hskips]
  rfl

/-- A replay's phrase that is missing, or that its lane has no room for, as the operations see it. -/
theorem not_joinable {k : Seat} {h : Option Handle} {s : State}
    (hmissing : (∀ g, ¬ (h = some g ∧ (s.handle g).state = .kept)) ∨ ¬ (s.lane (.prompt k)).length + 1 ≤ 4) :
    ∀ g, h = some g → (s.handle g).state ≠ .kept ∨ 4 ≤ (s.lane (.prompt k)).length := fun g hg =>
  hmissing.imp (fun hno hkept => hno g ⟨hg, hkept⟩) fun hroom => by omega

theorem lane_phraseQueued_length (k : Seat) (g : Handle) (origin : SpeechOrigin) (s : State) :
    ((phraseQueued k g origin s).lane (.prompt k)).length = (s.lane (.prompt k)).length + 1 := by
  rw [lane_phraseQueued, if_pos rfl, List.length_append, List.length_singleton]

section Replay
variable {k : Seat} {r : WordRecord} {s : State}

theorem replayWord_both {g h : Handle} (hprompt : r.prompt = some g) (hpromptKept : (s.handle g).state = .kept)
    (hsentence : r.sentence = some h) (hsentenceKept : (s.handle h).state = .kept)
    (hroom : (s.lane (.prompt k)).length + 2 ≤ 4) :
    replayWord k r (woke k s) =
      (true, woke k (phraseQueued k h .drillPrompt (phraseQueued k g .drillPrompt s))) := by
  have hjoins : queueOrSkip k .drillPrompt (some h) (phraseQueued k g .drillPrompt (woke k s))
      = phraseQueued k h .drillPrompt (phraseQueued k g .drillPrompt (woke k s)) :=
    queueOrSkip_kept ((handle_phraseQueued ..).trans hsentenceKept) (by
      rw [lane_phraseQueued_length]
      exact Nat.lt_of_succ_le hroom)
  rw [replayWord_prompt (s := woke k s) hprompt hpromptKept (Nat.lt_of_succ_lt hroom), hsentence, hjoins]
  rfl

theorem replayWord_promptOnly {g : Handle} (hprompt : r.prompt = some g) (hkept : (s.handle g).state = .kept)
    (hroom : (s.lane (.prompt k)).length + 1 ≤ 4)
    (hmissing : (∀ h, ¬ (r.sentence = some h ∧ (s.handle h).state = .kept)) ∨ ¬ (s.lane (.prompt k)).length + 2 ≤ 4) :
    replayWord k r (woke k s) = (true, woke k (phraseQueued k g .drillPrompt s)) := by
  have hskips : queueOrSkip k .drillPrompt r.sentence (phraseQueued k g .drillPrompt (woke k s))
      = phraseQueued k g .drillPrompt (woke k s) :=
    queueOrSkip_missing fun h hh => by
      rw [handle_phraseQueued, lane_phraseQueued_length]
      exact hmissing.imp (fun hno hkept => hno h ⟨hh, hkept⟩) fun hfull =>
        Nat.le_of_not_lt fun hlt => hfull (Nat.succ_le_of_lt hlt)
  rw [replayWord_prompt (s := woke k s) hprompt hkept (Nat.lt_of_succ_le hroom), hskips]
  rfl

end Replay

/-- Barge-in, and then the key as with barge-in off. -/
theorem takeKey_bargeIn_done {k : Seat} {e : KeyEntry} {s : State}
    (hstate : (s.seat k).state = .present ∨ (s.seat k).state = .entry) (haccounted : SpeechAccounted s)
    (hes : ∀ e ∈ s.lane (.prompt k), bargedOver k e = true → e.tag = 0 ∧ (s.seat k).reviewFeedback ≠ some e.id)
    (hkind : e.kind ≠ .mash) (hcode : (1 ≤ e.code.toNat ∧ e.code.toNat ≤ 27) ∨ e.code = 34)
    (hbarge : (s.seat k).settings.bargeIn = true) :
    takeKey k e s =
      withBargeIn k true (takeKey k e (withBargeIn k false (markCutPending (isDrillPrompt k) (promptsCut k s)))) := by
  have hseats : (markCutPending (isDrillPrompt k) (promptsCut k s)).seat k = (promptsCut k s).seat k := by simp [State.seat]
  exact takeKey_bargeIn hbarge (by rw [hseats, (promptsCut_frame hstate haccounted).2]) hkind hcode
    (bargeIn_woke hstate haccounted hes)

/-- Settles O54: each key by its kind and code, the operations read off seat, target and lanes before the key is noted. -/
theorem takenKeysAct : Obligations.TakenKeysAct := by
  unfold Obligations.TakenKeysAct
  intro k stamp overrun s
  simp only
  intro hstate
  have hpress : ∀ code : Byte, ({ code, kind := .press, stamp, overrun } : KeyEntry).kind ≠ .mash := fun _ => nofun
  refine ⟨fun letter hlow hhigh hbarge => ⟨fun hroom => ⟨fun hcheck => ?_, fun hcheck => ⟨fun hright => ?_, fun hwrong => ?_⟩⟩,
      takeKey_letter_full (hpress letter) hlow hhigh hbarge⟩,
    fun p hbarge hp htake => ⟨fun letter hletter hdiffers => ?_, fun hwhole => ?_⟩,
    fun hline => ⟨takeKey_erase_empty (hpress 32) rfl hline, takeKey_enter_empty (hpress 33) rfl hline⟩,
    fun hline hentry => takeKey_erase_line (hpress 32) rfl hline hentry,
    fun hplays => takeKey_sayAgain_playing (hpress 35) rfl hplays,
    fun w hword hsilent => ⟨fun g h hg hh hroom => ?_, fun g hg hroom hmissing => ?_, fun h hg hh hroom => ?_,
      fun hmissing => ?_⟩,
    ⟨fun h hh hroom => takeKey_mash_kept rfl hh.1 hh.2 hroom, fun hmissing => takeKey_mash_missing rfl (not_joinable hmissing)⟩,
    fun code hcode hbarge haccounted hes => ⟨fun hother => ?_, fun u e rest hu hlane hhead hstreaming hseat horigin => ?_⟩⟩
  case refine_1 =>
    rw [takeKey_letter_room (mark := .unchecked) (hpress letter) hlow hhigh hbarge hroom (by rw [hcheck]; rfl),
      letterSpoken_right (mark := .unchecked) (by nofun)]
    rfl
  case refine_2 =>
    rw [takeKey_letter_room (mark := .right) (hpress letter) hlow hhigh hbarge hroom
      (by rw [hcheck, typedMark_strict]; exact if_pos hright), letterSpoken_right (mark := .right) (by nofun)]
    rfl
  case refine_3 =>
    rw [takeKey_letter_room (mark := .wrong) (hpress letter) hlow hhigh hbarge hroom
      (by rw [hcheck, typedMark_strict]; exact if_neg hwrong), letterSpoken_wrong]
    rfl
  case refine_4 => exact takeKey_hint_letter (hpress 34) rfl hbarge hp htake hletter hdiffers
  case refine_5 => exact takeKey_hint_whole (hpress 34) rfl hbarge hp htake hwhole
  case refine_6 =>
    exact takeKey_sayAgain_replayed (hpress 35) rfl hword hsilent (replayWord_both hg.1 hg.2 hh.1 hh.2 hroom) rfl
  case refine_7 =>
    exact takeKey_sayAgain_replayed (hpress 35) rfl hword hsilent (replayWord_promptOnly hg.1 hg.2 hroom hmissing) rfl
  case refine_8 =>
    exact takeKey_sayAgain_replayed (t := phraseQueued k h .drillPrompt s) (hpress 35) rfl hword hsilent
      (replayWord_sentence (s := woke k s) (not_joinable (.inl hg)) hh.1 hh.2 hroom) rfl
  case refine_9 =>
    exact takeKey_sayAgain_missing (hpress 35) rfl hword hsilent
      (replayWord_missing (s := woke k s)
        (not_joinable (hmissing.imp_left And.left)) (not_joinable (hmissing.imp_left And.right)))
  case refine_10 =>
    have hacts := takeKey_bargeIn_done hstate haccounted hes (hpress code) hcode hbarge
    rw [markCutPending_promptsCut hstate haccounted hother] at hacts
    exact hacts
  case refine_11 =>
    have hacts := takeKey_bargeIn_done hstate haccounted hes (hpress code) hcode hbarge
    rw [markCutPending_promptsCut_own hstate haccounted hu hlane hhead hstreaming hseat horigin] at hacts
    exact hacts

end Sys2Proof.Proofs.TakenKeys
end

section
/-! PROOFS. The two timers of a seat: the ERASE repeat (R13, R54) and the idle timer (R65). -/
namespace Sys2Proof.Proofs.Timers
open Sys2Proof Sys2Proof.Machine Sys2Proof.Safety
open Sys2Proof.Proofs.Seats Sys2Proof.Proofs.Reports Sys2Proof.Proofs.Drill Sys2Proof.Proofs.Keys
open Sys2Proof.Proofs.TakenKeys Sys2Proof.Proofs.Tick

/-! ## One seat changed, its timer running as before -/

theorem seat_of_set {j k : Seat} {c : SeatContext} {s x : State} (h : x.seats = s.seats.set k c) :
    x.seat j = if j = k then c else s.seat j := by
  rw [State.seat, h, Pair.get_set]
  rfl

/-- `settle` after one seat has changed, but not what decides over its timer: the lines alone. -/
theorem settle_of_timer {k : Seat} {c : SeatContext} {s x : State} (h : LinesFollow s) (hseats : x.seats = s.seats.set k c)
    (hlanes : x.lanes = s.lanes) (hstate : c.state = (s.seat k).state)
    (htimeout : c.settings.idleTimeout = (s.seat k).settings.idleTimeout)
    (htimer : c.idleTimer.isSome = (s.seat k).idleTimer.isSome) : settle x = { x with pins := pinLevels x } := by
  have hsame : ∀ j, (x.seat j).state = (s.seat j).state
      ∧ (x.seat j).settings.idleTimeout = (s.seat j).settings.idleTimeout
      ∧ (x.seat j).idleTimer.isSome = (s.seat j).idleTimer.isSome := fun j => by
    rw [seat_of_set hseats]
    by_cases hj : j = k
    · rw [if_pos hj, hj]
      exact ⟨hstate, htimeout, htimer⟩
    · rw [if_neg hj]
      exact ⟨rfl, rfl, rfl⟩
  refine settle_eq_pins fun j => ?_
  obtain ⟨hs, ht, hi⟩ := hsame j
  rw [hi, idleTimerRuns_congr hs ht hlanes, ((linesFollow_iff s).mp h).2 j]

/-- A write of another line changes the symbols and the generation. -/
theorem liveWith_line {k : Seat} {s : State} (h : Shows k s) {line : List Symbol} (hne : line ≠ (s.seat k).line) :
    liveWith k (shownState (s.seat k).state) (s.target k).length (s.mirror.live.get k).verdict (s.seat k).tries line s =
      s.mirror.live.set k
        { s.mirror.live.get k with generation := (s.mirror.live.get k).generation + 1, symbols := line } := by
  obtain ⟨h1, h2, h3, h4⟩ := h
  simp only [liveWith]
  rw [if_neg fun e => hne (by rw [← h4, ← e]), ← h1, ← h2, ← h3]

theorem dropLast_ne {α : Type} {l : List α} (h : l ≠ []) : l.dropLast ≠ l := fun he => by
  have := congrArg List.length he
  rw [List.length_dropLast] at this
  have := List.length_pos_iff.mpr h
  omega

/-! ## A key event that joins the queue -/

/-- The entry of a key event for the lesson (R18). -/
def keyEntryAt (code : Byte) (kind : KeyKind) (s : State) : KeyEntry :=
  { code := code, kind := kind, stamp := s.clock.setWidth 16, overrun := false }

theorem routeEntry_queued {k : Seat} {code : Byte} {kind : KeyKind} {s : State}
    (hstate : (s.seat k).state = .present ∨ (s.seat k).state = .entry ∨ ∃ phase, (s.seat k).state = .review phase)
    (hroom : (s.keyQueue k).length < 16) :
    routeEntry k code kind s = takeKeys k (s.setKeyQueue k (s.keyQueue k ++ [keyEntryAt code kind s])) := by
  unfold routeEntry
  rcases hstate with h | h | ⟨phase, h⟩
  · rw [h]; exact if_pos hroom
  · rw [h]; exact if_pos hroom
  · rw [h]; exact if_pos hroom

theorem routeEntry_off {k : Seat} {code : Byte} {kind : KeyKind} {s : State} (h : (s.seat k).state = .off) :
    routeEntry k code kind s = s := by
  unfold routeEntry
  rw [h]

/-- An event for a seat in its word, with no key waiting, is taken at once. -/
theorem routeEntry_taken {k : Seat} {code : Byte} {kind : KeyKind} {s : State}
    (hstate : (s.seat k).state = .present ∨ (s.seat k).state = .entry) (hempty : s.keyQueue k = []) :
    routeEntry k code kind s = takeKey k (keyEntryAt code kind s) s := by
  have hset : (s.setKeyQueue k [keyEntryAt code kind s]).setKeyQueue k [] = s := by
    simp only [State.setKeyQueue, Pair.set_set]
    rw [← hempty, State.keyQueue, Pair.set_get]
  rw [routeEntry_queued (hstate.imp_right .inl) (by rw [hempty]; decide), hempty, List.nil_append,
    takeKeys_of_one (State.keyQueue_setKeyQueue_self ..) hstate, hset]

/-! ## The ERASE repeat -/

section Repeat
variable {k : Seat} {p : Position} {left : Nat} {s : State}

/-- The repeat of a matrix starts again at RepeatRate. -/
def repeatRestarted (k : Seat) (p : Position) (s : State) : State :=
  s.setMatrix k { s.matrix k with repeating := some { position := p, left := s.timing.repeatRate.toNat } }

theorem fireRepeat_due (h : (s.matrix k).repeating = some { position := p, left := 0 }) :
    fireRepeat k s = routeEntry k 32 .repeated (repeatRestarted k p s) := by
  simp only [fireRepeat, h]
  rfl

theorem fireRepeat_not_due (h : (s.matrix k).repeating = some { position := p, left := left }) (hleft : left ≠ 0) :
    fireRepeat k s = s := by
  simp only [fireRepeat, h, if_neg hleft]

/-- The last symbol of a line in ENTRY has been erased, and the image shows it. -/
def lastErased (k : Seat) (s : State) : State :=
  { s with
    seats := s.seats.set k { woken (s.seat k) with line := (s.seat k).line.dropLast },
    mirror :=
      { s.mirror with
        live :=
          s.mirror.live.set k
            { s.mirror.live.get k with
              generation := (s.mirror.live.get k).generation + 1, symbols := (s.seat k).line.dropLast } } }

theorem lineShown_dropLast (hshows : Shows k s) (hstate : (s.seat k).state = .entry) (hline : (s.seat k).line ≠ []) :
    lineShown k (woken (s.seat k)) (s.seat k).line.dropLast s = lastErased k s := by
  have hlive := liveWith_line hshows (dropLast_ne hline)
  rw [hstate] at hlive
  have hcontext : ({ woken (s.seat k) with state := .entry, line := (s.seat k).line.dropLast } : SeatContext)
      = { woken (s.seat k) with line := (s.seat k).line.dropLast } := by rw [← hstate]; rfl
  rw [lineShown, hcontext, lastErased, ← hlive]
  rfl

theorem fireRepeat_entry (h : (s.matrix k).repeating = some { position := p, left := 0 }) (hshows : Shows k s)
    (hstate : (s.seat k).state = .entry) (hline : (s.seat k).line ≠ []) (hempty : s.keyQueue k = []) :
    fireRepeat k s = lastErased k (repeatRestarted k p s) := by
  rw [fireRepeat_due h, routeEntry_taken (s := repeatRestarted k p s) (.inr hstate) hempty,
    takeKey_erase_line (s := repeatRestarted k p s) (by nofun) rfl hline hstate]
  exact lineShown_dropLast (s := repeatRestarted k p s) hshows hstate hline

end Repeat

/-- Settles O55: by the state of the seat. -/
theorem repeatErasesAgain : Obligations.RepeatErasesAgain := by
  unfold Obligations.RepeatErasesAgain
  intro k p left s hl hi hrepeat
  refine ⟨fun hleft hstate hline hempty => ?_, fun phase hleft hstate hroom => ?_, fun hleft hstate => ?_, fun hleft => ?_⟩
  · subst hleft
    have hsettle := settle_of_timer (k := k) (x := lastErased k (repeatRestarted k p s)) hl rfl rfl rfl rfl Option.isSome_map
    exact ⟨_, congrArg Host.Outcome.next
      ((congrArg settle (fireRepeat_entry hrepeat (hi k) hstate hline hempty)).trans hsettle), rfl⟩
  · subst hleft
    have hqueued : fireRepeat k s = { s with
        matrices := (repeatRestarted k p s).matrices,
        keyQueues := s.keyQueues.set k (s.keyQueue k ++ [keyEntryAt 32 .repeated s]) } := by
      rw [fireRepeat_due hrepeat, routeEntry_queued (s := repeatRestarted k p s) (.inr (.inr ⟨phase, hstate⟩)) hroom]
      exact takeKeys_of_resting (fun h => nomatch hstate.symm.trans h) (fun h => nomatch hstate.symm.trans h)
        fun h => nomatch hstate.symm.trans h
    refine congrArg Host.Outcome.next ?_
    rw [hqueued]
    exact settle_eq_self (linesFollow_congr hl rfl rfl rfl rfl rfl rfl)
  · subst hleft
    refine congrArg Host.Outcome.next ?_
    rw [fireRepeat_due hrepeat, routeEntry_off (s := repeatRestarted k p s) hstate]
    exact settle_eq_self (linesFollow_congr hl rfl rfl rfl rfl rfl rfl)
  · refine congrArg Host.Outcome.next ?_
    rw [fireRepeat_not_due hrepeat hleft, settle_eq_self hl]

/-! ## The idle timer -/

section Idle
variable {k : Seat} {s : State} (hdue : (s.seat k).idleTimer = some 0)

/-- A seat in its word pauses, and its image shows that. -/
def goneShown (k : Seat) (point : ResumePoint) (s : State) : State :=
  { s with
    seats := s.seats.set k { s.seat k with state := .paused .gone point, idleTimer := none },
    mirror :=
      { s.mirror with
        live :=
          s.mirror.live.set k
            { s.mirror.live.get k with state := .paused, generation := (s.mirror.live.get k).generation + 1 } },
    reports := offered s (.seatEvent k .gone) }

theorem shownState_resumedState_ne (point : ResumePoint) : ShownState.paused ≠ shownState (resumedState point) := by
  cases point <;> nofun

include hdue

theorem fireIdle_gone {point : ResumePoint} (hstate : (s.seat k).state = resumedState point)
    (hword : (s.seat k).state = .present ∨ (s.seat k).state = .entry) (hshows : Shows k s)
    (hlimit : (s.seat k).settings.nudgeLimit.toNat ≤ (s.seat k).nudges.toNat) :
    fireIdle k s = goneShown k point s := by
  have hlive := liveWith_state hshows (state := .paused) (by rw [hstate]; exact shownState_resumedState_ne point)
  have hfire : fireIdle k s = postEvent k .gone (pause k .gone s) :=
    (if_pos ⟨hdue, hword⟩).trans (if_neg (Nat.not_lt_of_le hlimit))
  rw [hfire, pause_eq hstate, postEvent_eq, seatShown, goneShown, ← hlive]
  rfl

theorem fireIdle_nudge (hword : (s.seat k).state = .present ∨ (s.seat k).state = .entry)
    (hbelow : (s.seat k).nudges.toNat < (s.seat k).settings.nudgeLimit.toNat) : fireIdle k s = nudge k s :=
  (if_pos ⟨hdue, hword⟩).trans (if_pos hbelow)

end Idle

section Nudge
variable {k : Seat} {s : State}

/-- The phrase of a nudge has been queued, and the seat's timer stopped. -/
def nudgeQueued (k : Seat) (h : Handle) (s : State) : State :=
  { phraseQueued k h .drillFeedback s with
    seats := s.seats.set k { s.seat k with nudges := (s.seat k).nudges + 1, idleTimer := none },
    reports := offered s (.seatEvent k .nudge) }

/-- A nudge without its phrase starts the seat's timer again. -/
def nudgeSilent (k : Seat) (s : State) : State :=
  { s with
    seats :=
      s.seats.set k
        { s.seat k with
          nudges := (s.seat k).nudges + 1, idleTimer := some ((s.seat k).settings.idleTimeout.toNat * 1000) },
    reports := offered s (.seatEvent k .nudge) }

theorem nudge_kept {h : Handle} (hslot : s.lanes.feedback[5] = some h) (hkept : (s.handle h).state = .kept)
    (hroom : (s.lane (.prompt k)).length < 4) :
    nudge k s = nudgeQueued k h s := by
  have hqueue := queueDrillPhrase_kept (k := k) (origin := .drillFeedback) hkept hroom
  rw [← hslot] at hqueue
  simp only [nudge, hqueue, postEvent_eq, State.mapSeat, State.setSeat, State.seat, Pair.get_set_self, Pair.set_set]
  rfl

theorem nudge_missing
    (hmissing : ∀ h, s.lanes.feedback[5] = some h → (s.handle h).state ≠ .kept ∨ 4 ≤ (s.lane (.prompt k)).length) :
    nudge k s = nudgeSilent k s := by
  have hqueue := queueDrillPhrase_missing (origin := .drillFeedback) hmissing
  simp only [nudge, hqueue, postEvent_eq, State.mapSeat, State.setSeat, State.seat, Pair.get_set_self, Pair.set_set]
  rfl

end Nudge

/-- Settles O56: the pause at the limit, the nudge below it with and without its phrase. -/
theorem idleTimerNudgesOrPauses : Obligations.IdleTimerNudgesOrPauses := by
  unfold Obligations.IdleTimerNudgesOrPauses
  intro k point s hl hi hpoint hstate
  have hword : (s.seat k).state = .present ∨ (s.seat k).state = .entry := by
    rw [hstate]
    rcases hpoint with rfl | rfl
    · exact .inl rfl
    · exact .inr rfl
  refine ⟨fun hdue hlimit => ?_, fun hdue hbelow => ⟨fun h hslot hkept hroom => ?_, fun hmissing => ?_⟩, fun hnot => ?_⟩
  · have hnone : idleTimerAfter k (goneShown k point s) = none :=
      idleTimerAfter_of_state (by rw [seat_of_seats (s := s) rfl]; nofun) (by rw [seat_of_seats (s := s) rfl]; nofun)
    have hsettle := settle_one (k := k) (x := goneShown k point s) hl rfl rfl rfl
    rw [hnone] at hsettle
    exact ⟨_, congrArg Host.Outcome.next ((congrArg settle (fireIdle_gone hdue hstate hword (hi k) hlimit)).trans hsettle),
      rfl⟩
  · have hmem : freshEntry s (.phrase h) .drillFeedback (some k) none 0
        ∈ (nudgeQueued k h s).lane (.prompt k) ++ (nudgeQueued k h s).lane (.echo k) := by
      have hlane : (nudgeQueued k h s).lane (.prompt k) = (phraseQueued k h .drillFeedback s).lane (.prompt k) := rfl
      rw [hlane, lane_phraseQueued, if_pos rfl]
      exact List.mem_append_left _ (List.mem_append_right _ List.mem_cons_self)
    have hother : (nudgeQueued k h s).lane (.prompt (otherSeat k)) = s.lane (.prompt (otherSeat k)) := by
      cases k <;> rfl
    have hsettle := settle_one (k := k) (x := nudgeQueued k h s) hl rfl hother rfl
    rw [idleTimerAfter_of_entry hmem rfl] at hsettle
    exact ⟨_, congrArg Host.Outcome.next
      ((congrArg settle ((fireIdle_nudge hdue hword hbelow).trans (nudge_kept hslot hkept hroom))).trans hsettle), rfl⟩
  · have hsettle := settle_of_timer (k := k) (x := nudgeSilent k s) hl rfl rfl rfl rfl (by rw [hdue]; rfl)
    exact ⟨_, congrArg Host.Outcome.next
      ((congrArg settle ((fireIdle_nudge hdue hword hbelow).trans (nudge_missing hmissing))).trans hsettle), rfl⟩
  · refine congrArg Host.Outcome.next ?_
    rw [fireIdle_of_not_due hnot, settle_eq_self hl]

end Sys2Proof.Proofs.Timers
end

section
/-! PROOFS. One key and its routing (R6 to R19, R50, R67, R71). -/
namespace Sys2Proof.Proofs.Scanner
open Sys2Proof Sys2Proof.Machine Sys2Proof.Safety
open Sys2Proof.Proofs.Seats Sys2Proof.Proofs.Reports Sys2Proof.Proofs.Drill Sys2Proof.Proofs.Completion
open Sys2Proof.Proofs.Keys Sys2Proof.Proofs.Timers

/-! ## The mash check and the ghost check -/

/-- Three other corners of a rectangle with the key are held (R9). -/
theorem ghostSuspect_iff (x : MatrixState) (p : Position) :
    ghostSuspect x p = true ↔
      ∃ r c : Nat, r < 8 ∧ c < 8 ∧ r ≠ p.val / 8 ∧ c ≠ p.val % 8
        ∧ isHeld (x.keys.toList.getD (p.val / 8 * 8 + c) .up) = true
        ∧ isHeld (x.keys.toList.getD (r * 8 + p.val % 8) .up) = true
        ∧ isHeld (x.keys.toList.getD (r * 8 + c) .up) = true := by
  simp only [ghostSuspect, List.any_eq_true, List.mem_range, Bool.and_eq_true, decide_eq_true_eq, heldAt]
  constructor
  · rintro ⟨r, hr, ⟨hrow, hown⟩, c, hc, ⟨hcolumn, hside⟩, hcorner⟩
    exact ⟨r, c, hr, hc, hrow, hcolumn, hside, hown, hcorner⟩
  · rintro ⟨r, c, hr, hc, hrow, hcolumn, hside, hown, hcorner⟩
    exact ⟨r, hr, ⟨hrow, hown⟩, c, hc, ⟨hcolumn, hside⟩, hcorner⟩

/-- A key that becomes held is one more held key. -/
theorem heldCount_set {keys : Vector KeyState 64} {p : Position} {key : KeyState} (hnot : isHeld keys[p.val] = false)
    (hheld : isHeld key = true) : (keys.set p.val key).toList.countP isHeld = keys.toList.countP isHeld + 1 := by
  have hlength : p.val < keys.toList.length := by rw [Vector.length_toList]; exact p.isLt
  rw [Vector.toList_set, List.countP_set hlength, Vector.getElem_toList, hnot, hheld]
  simp

section Mash
variable {m : Seat} {x : MatrixState} {s : State}

/-- Few enough keys are held, or the matrix is MASHED already. -/
theorem mashCheck_of_not (h : x.condition = .mashed ∨ heldCount x ≤ s.timing.mashLimit.toNat) :
    mashCheck m (s.setMatrix m x) = s.setMatrix m x := by
  unfold mashCheck
  rw [State.matrix_setMatrix_self]
  refine if_neg fun ⟨hnormal, hover⟩ => ?_
  rcases h with h | h
  · rw [hnormal] at h
    cases h
  · exact Nat.not_lt_of_le h hover

theorem mashCheck_of_over (hnormal : x.condition = .normal) (hover : s.timing.mashLimit.toNat < heldCount x)
    (hrepeat : x.repeating = none) :
    mashCheck m (s.setMatrix m x) = routeEntry m 0 .mash (s.setMatrix m { x with condition := .mashed }) := by
  have hended : ({ x with condition := .mashed, repeating := none } : MatrixState) = { x with condition := .mashed } := by
    rw [← hrepeat]
  unfold mashCheck
  rw [State.matrix_setMatrix_self]
  refine (if_pos ⟨hnormal, hover⟩).trans ?_
  rw [hended]
  simp only [State.setMatrix, Pair.set_set]

end Mash

/-! ## A key that reaches DOWN -/

/-- The matrix once the key is DOWN. -/
def downMatrix (p : Position) (x : MatrixState) : MatrixState :=
  { x with keys := x.keys.set p.val .down, repeating := none }

/-- The matrix once the key is BLOCKED (R9). -/
def ghostMatrix (p : Position) (x : MatrixState) : MatrixState :=
  { x with keys := x.keys.set p.val (.blocked 0), repeating := none, ghosts := counted x.ghosts }

section Complete
variable {m : Seat} {p : Position} {n : Nat} {s : State} (hkey : (s.matrix m).keys[p.val] = .settlingDown n)
variable (hdue : s.timing.debounce.toNat ≤ n + 1)

include hkey hdue in
theorem scanKey_completes : scanKey m p true s = completeKey m p s := by
  have hread : readKey s.timing.debounce.toNat true (s.matrix m).keys[p.val] = .completes := by
    rw [hkey]
    exact if_pos hdue
  simp only [scanKey, hread]

include hkey in
theorem heldCount_downMatrix : heldCount (downMatrix p (s.matrix m)) = (s.matrix m).keys.toList.countP isHeld + 1 :=
  heldCount_set (by rw [hkey]; rfl) rfl

include hkey in
theorem heldCount_ghostMatrix : heldCount (ghostMatrix p (s.matrix m)) = (s.matrix m).keys.toList.countP isHeld + 1 :=
  heldCount_set (by rw [hkey]; rfl) rfl

end Complete

section Check
variable {m : Seat} {p : Position} {s : State}

/-- A key that is no ghost suspect, or on a matrix with diodes. -/
theorem completeKey_down (h : ghostSuspect (s.matrix m) p = false ∨ (s.matrix m).diodes = true) :
    completeKey m p s =
      let t := mashCheck m (s.setMatrix m (downMatrix p (s.matrix m)))
      if (t.matrix m).condition = .normal ∧ (s.matrix m).keymap[p.val] ≠ 0 then pressEvent m p (s.matrix m).keymap[p.val] t
      else t := by
  have hghost : (!(s.matrix m).diodes && ghostSuspect (s.matrix m) p) = false := by
    rcases h with h | h
    · rw [h, Bool.and_false]
    · rw [h]; rfl
  unfold completeKey
  simp only [hghost, Bool.false_eq_true, if_false, true_and]
  rfl

theorem completeKey_ghost (h : (!(s.matrix m).diodes && ghostSuspect (s.matrix m) p) = true) :
    completeKey m p s = mashCheck m (s.setMatrix m (ghostMatrix p (s.matrix m))) := by
  unfold completeKey
  simp only [h, if_true, Bool.true_eq_false, false_and, if_false, count_eq]
  rfl

end Check

/-- An entry for a seat in REVIEW waits (R50). -/
theorem routeEntry_review {m : Seat} {s : State} {phase : ReviewPhase} (h : (s.seat m).state = .review phase)
    (hroom : (s.keyQueue m).length < 16) (code : Byte) (kind : KeyKind) :
    routeEntry m code kind s = { s with keyQueues := s.keyQueues.set m (s.keyQueue m ++ [keyEntryAt code kind s]) } := by
  rw [routeEntry_queued (.inr (.inr ⟨phase, h⟩)) hroom]
  exact takeKeys_of_resting (fun hp => nomatch h.symm.trans hp) (fun he => nomatch h.symm.trans he)
    fun hi => nomatch h.symm.trans hi

/-! ## What a key that completes comes to -/

/-- A matrix has become MASHED. -/
def matrixMashed (m : Seat) (y : MatrixState) (s : State) : State := s.setMatrix m { y with condition := .mashed }

section Over
variable {m : Seat} {y : MatrixState} {s : State} (hnormal : y.condition = .normal)
variable (hover : s.timing.mashLimit.toNat < heldCount y) (hrepeat : y.repeating = none)
include hnormal hover hrepeat

/-- A MASH entry waits for a seat in REVIEW (R10, R50). -/
theorem mashCheck_review {phase : ReviewPhase} (h : (s.seat m).state = .review phase) (hroom : (s.keyQueue m).length < 16) :
    mashCheck m (s.setMatrix m y) =
      { matrixMashed m y s with keyQueues := s.keyQueues.set m (s.keyQueue m ++ [keyEntryAt 0 .mash s]) } := by
  rw [mashCheck_of_over hnormal hover hrepeat]
  exact routeEntry_review (s := matrixMashed m y s) h hroom 0 .mash

/-- A MASH entry is discarded for a seat in OFF (R15). -/
theorem mashCheck_off (h : (s.seat m).state = .off) : mashCheck m (s.setMatrix m y) = matrixMashed m y s := by
  rw [mashCheck_of_over hnormal hover hrepeat]
  exact routeEntry_off (s := matrixMashed m y s) h

end Over

section Down
variable {m : Seat} {p : Position} {s : State}
variable (hclear : ghostSuspect (s.matrix m) p = false ∨ (s.matrix m).diodes = true)
include hclear

theorem completeKey_quiet (h : ¬ (((mashCheck m (s.setMatrix m (downMatrix p (s.matrix m)))).matrix m).condition = .normal
      ∧ (s.matrix m).keymap[p.val] ≠ 0)) :
    completeKey m p s = mashCheck m (s.setMatrix m (downMatrix p (s.matrix m))) := by
  rw [completeKey_down hclear]
  exact if_neg h

/-- A key that mashes its matrix produces nothing itself (R10). -/
theorem completeKey_mashing {t : State} (h : mashCheck m (s.setMatrix m (downMatrix p (s.matrix m))) = t)
    (hmashed : (t.matrix m).condition = .mashed) : completeKey m p s = t := by
  rw [completeKey_quiet hclear (by rw [h, hmashed]; exact fun hn => nomatch hn.1), h]

/-- A key of a MASHED matrix produces nothing (R11). -/
theorem completeKey_mashed (hmashed : (s.matrix m).condition = .mashed) :
    completeKey m p s = s.setMatrix m (downMatrix p (s.matrix m)) :=
  completeKey_mashing hclear (mashCheck_of_not (.inl hmashed)) (by rw [State.matrix_setMatrix_self]; exact hmashed)

variable (hheld : heldCount (downMatrix p (s.matrix m)) ≤ s.timing.mashLimit.toNat)
include hheld

theorem completeKey_unmapped (hcode : (s.matrix m).keymap[p.val] = 0) :
    completeKey m p s = s.setMatrix m (downMatrix p (s.matrix m)) := by
  rw [completeKey_quiet hclear fun h => h.2 hcode, mashCheck_of_not (.inr hheld)]

/-- A mapped key is a press event (R12). -/
theorem completeKey_mapped (hnormal : (s.matrix m).condition = .normal) (hcode : (s.matrix m).keymap[p.val] ≠ 0) :
    completeKey m p s = pressEvent m p (s.matrix m).keymap[p.val] (s.setMatrix m (downMatrix p (s.matrix m))) := by
  rw [completeKey_down hclear, mashCheck_of_not (.inr hheld)]
  exact if_pos ⟨by rw [State.matrix_setMatrix_self]; exact hnormal, hcode⟩

end Down

/-- The press event of a key that has just come DOWN. -/
theorem pressEvent_down (m : Seat) (p : Position) (code : Byte) (x : MatrixState) (s : State) :
    pressEvent m p code (s.setMatrix m (downMatrix p x)) =
      routePress m code
        (s.setMatrix m
          { downMatrix p x with
            repeating := if code = 32 then some { position := p, left := s.timing.repeatDelay.toNat } else none }) := by
  have hself : (s.setMatrix m (downMatrix p x)).matrix m = downMatrix p x := State.matrix_setMatrix_self ..
  rw [pressEvent, hself]
  refine congrArg (routePress m code) ?_
  by_cases hcode : code = 32
  · rw [if_pos (c := code = keyErase) hcode, if_pos hcode]
    simp only [State.setMatrix, Pair.set_set]
  · rw [if_neg (c := code = keyErase) hcode, if_neg hcode]
    rfl

/-! ## Routing -/

theorem isLessonKey_iff (code : Byte) : isLessonKey code = true ↔ 40 ≤ code.toNat ∧ code.toNat ≤ 47 := by
  simp only [isLessonKey, Bool.and_eq_true, decide_eq_true_eq]

theorem routePress_pause (m : Seat) (s : State) : routePress m 36 s = pauseKey m s := if_pos rfl

theorem routePress_lesson {m : Seat} {code : Byte} {s : State} (h : 40 ≤ code.toNat ∧ code.toNat ≤ 47) :
    routePress m code s = { s with reports := offered s (.lessonKey m code) } := by
  have hne : code ≠ keyPause := fun he => absurd h.1 (by rw [he]; decide)
  rw [routePress, if_neg hne, if_pos ((isLessonKey_iff code).mpr h), offerRecord_eq]

theorem routePress_other {m : Seat} {code : Byte} {s : State} (hpause : code ≠ 36)
    (hlesson : ¬ (40 ≤ code.toNat ∧ code.toNat ≤ 47)) : routePress m code s = routeEntry m code .press s := by
  rw [routePress, if_neg (c := code = keyPause) hpause, if_neg fun h => hlesson ((isLessonKey_iff code).mp h)]

theorem pauseKey_word {m : Seat} {point : ResumePoint} {s : State} (h : (s.seat m).state = resumedState point) :
    pauseKey m s = postEvent m .childPause (pause m .child s) := by
  unfold pauseKey
  rw [h]
  cases point <;> rfl

theorem pauseKey_paused {m : Seat} {point : ResumePoint} {s : State}
    (h : (s.seat m).state = .paused .child point ∨ (s.seat m).state = .paused .gone point) :
    pauseKey m s = { resume m s with reports := offered (resume m s) (.seatEvent m .childResume) } := by
  rw [← postEvent_eq]
  unfold pauseKey
  rcases h with h | h <;> rw [h]

theorem pauseKey_resting {m : Seat} {s : State}
    (h : (s.seat m).state = .off ∨ (s.seat m).state = .idle ∨ ∃ point, (s.seat m).state = .paused .lesson point) :
    pauseKey m s = s := by
  unfold pauseKey
  rcases h with h | h | ⟨point, h⟩ <;> rw [h]

/-- A resume into ENTRY with no key waiting. -/
theorem resume_entry {m : Seat} {reason : PauseReason} {s : State} (h : (s.seat m).state = .paused reason .entry)
    (hempty : s.keyQueue m = []) :
    resume m s = lineShown m { s.seat m with nudges := 0 } (s.seat m).line s := by
  have hshown : writeImageKeepingVerdict m (s.mapSeat m fun c => { c with state := .entry, nudges := 0 })
      = lineShown m { s.seat m with nudges := 0 } (s.seat m).line s := writeKeeping_mapSeat rfl
  have hstate : ((lineShown m { s.seat m with nudges := 0 } (s.seat m).line s).seat m).state = .entry := by
    rw [seat_of_set (s := s) rfl, if_pos rfl]
  have hresume : resume m s = takeKeys m (leaveReviewIfDone m (retryIfDone m
      (writeImageKeepingVerdict m (s.mapSeat m fun c => { c with state := .entry, nudges := 0 })))) := by
    unfold resume
    rw [h]
    rfl
  rw [hresume, hshown, retryIfDone_of_state (by rw [hstate]; nofun),
    leaveReviewIfDone_of_not (.inl (by rw [hstate]; nofun))]
  exact takeKeys_of_empty hempty

/-! ## Entries -/

theorem routeEntry_discarded {m : Seat} {code : Byte} {kind : KeyKind} {s : State}
    (h : (s.seat m).state = .off
      ∨ ∃ point, (s.seat m).state = .paused .child point ∨ (s.seat m).state = .paused .lesson point) :
    routeEntry m code kind s = s := by
  unfold routeEntry
  rcases h with h | ⟨point, h | h⟩ <;> rw [h]

theorem flagNewest_append (older : List KeyEntry) (newest : KeyEntry) :
    flagNewest (older ++ [newest]) = older ++ [{ newest with overrun := true }] := by
  induction older with
  | nil => rfl
  | cons e rest ih =>
    cases rest with
    | nil => rfl
    | cons f rest => exact congrArg (e :: ·) ih

theorem loseKey_eq {m : Seat} {older : List KeyEntry} {newest : KeyEntry} {s : State}
    (h : s.keyQueue m = older ++ [newest]) :
    loseKey m s =
      { faulted .keyOverrun (seatCode m) s with
        keyQueues := s.keyQueues.set m (older ++ [{ newest with overrun := true }]),
        lostKeys := s.lostKeys.set m (counted (s.lostKeys.get m)) } := by
  rw [loseKey, raiseFault_eq, h, flagNewest_append, count_eq]
  rfl

theorem routeEntry_lost {m : Seat} {code : Byte} {kind : KeyKind} {s : State} (hfull : 16 ≤ (s.keyQueue m).length)
    (hoff : (s.seat m).state ≠ .off)
    (hpaused : ∀ point, (s.seat m).state ≠ .paused .child point ∧ (s.seat m).state ≠ .paused .lesson point) :
    routeEntry m code kind s = loseKey m s := by
  have hno : ¬ (s.keyQueue m).length < Config.keyQueueSize := Nat.not_lt_of_le hfull
  unfold routeEntry
  split
  case h_1 h => exact absurd h hoff
  case h_2 point h => exact absurd h (hpaused point).1
  case h_3 point h => exact absurd h (hpaused point).2
  case h_4 => exact if_neg hno
  case h_5 => exact if_neg hno
  case h_6 => exact if_neg hno
  case h_7 => exact if_neg hno
  case h_8 => exact if_neg hno

theorem routeEntry_gone {m : Seat} {code : Byte} {kind : KeyKind} {point : ResumePoint} {s : State}
    (h : (s.seat m).state = .paused .gone point) (hroom : (s.keyQueue m).length < 16) :
    routeEntry m code kind s = { resume m s with reports := offered (resume m s) (.seatEvent m .childResume) } := by
  rw [← postEvent_eq]
  unfold routeEntry
  rw [h]
  exact if_pos hroom

theorem routeEntry_idle {m : Seat} {code : Byte} {kind : KeyKind} {s : State} (h : (s.seat m).state = .idle)
    (hroom : (s.keyQueue m).length < 16) :
    routeEntry m code kind s = { s with keyQueues := s.keyQueues.set m [] } := by
  have hqueued : routeEntry m code kind s
      = takeKeys m (s.setKeyQueue m (s.keyQueue m ++ [keyEntryAt code kind s])) := by
    unfold routeEntry
    rw [h]
    exact if_pos hroom
  rw [hqueued, takeKeys_of_idle (s := s.setKeyQueue m (s.keyQueue m ++ [keyEntryAt code kind s])) h]
  simp only [State.setKeyQueue, Pair.set_set]

/-! ## The end of a pass, and the obligation -/

theorem endPass_of_up {m : Seat} {s : State} (hmashed : (s.matrix m).condition = .mashed)
    (h : ∀ key ∈ (s.matrix m).keys.toList, key = .up) :
    endPass m s = { s with matrices := s.matrices.set m { s.matrix m with condition := .normal } } :=
  if_pos ⟨hmashed, List.all_eq_true.mpr fun key hkey => decide_eq_true (h key hkey)⟩

theorem endPass_of_not_up {m : Seat} {s : State} (h : ∃ key ∈ (s.matrix m).keys.toList, key ≠ .up) : endPass m s = s :=
  if_neg fun ⟨_, hall⟩ => by
    obtain ⟨key, hkey, hne⟩ := h
    exact hne (of_decide_eq_true (List.all_eq_true.mp hall key hkey))

theorem readKey_cases (d n : Nat) :
    readKey d true .up = .becomes (.settlingDown 1) ∧ readKey d false .up = .becomes .up
      ∧ (n + 1 < d → readKey d true (.settlingDown n) = .becomes (.settlingDown (n + 1)))
      ∧ (d ≤ n + 1 → readKey d true (.settlingDown n) = .completes)
      ∧ readKey d false (.settlingDown n) = .becomes .up
      ∧ readKey d true .down = .becomes .down ∧ readKey d false .down = .becomes (.settlingUp 1)
      ∧ readKey d true (.settlingUp n) = .bounces
      ∧ (n + 1 < d → readKey d false (.settlingUp n) = .becomes (.settlingUp (n + 1)))
      ∧ (d ≤ n + 1 → readKey d false (.settlingUp n) = .becomes .up)
      ∧ readKey d true (.blocked n) = .becomes (.blocked 0)
      ∧ (n + 1 < d → readKey d false (.blocked n) = .becomes (.blocked (n + 1)))
      ∧ (d ≤ n + 1 → readKey d false (.blocked n) = .becomes .up) := by
  have hless : ∀ {x y : KeyState}, n + 1 < d → (if d ≤ n + 1 then x else y) = y := fun h => if_neg (Nat.not_le_of_lt h)
  exact ⟨rfl, rfl, fun h => if_neg (Nat.not_le_of_lt h), fun h => if_pos h, rfl, rfl, rfl, rfl,
    fun h => congrArg Reading.becomes (hless h), fun h => congrArg Reading.becomes (if_pos h), rfl,
    fun h => congrArg Reading.becomes (hless h), fun h => congrArg Reading.becomes (if_pos h)⟩

/-- Settles O51: a key by its reading, by the ghost and the mash check, and by the code it is routed by. -/
theorem keysSettleAndAreRouted : Obligations.KeysSettleAndAreRouted := by
  unfold Obligations.KeysSettleAndAreRouted
  refine ⟨readKey_cases, fun m p n s hkey hdue => ?_,
    fun m s hmashed => ⟨endPass_of_up hmashed, endPass_of_not_up⟩, fun m s => ?_⟩
  · have hdown := heldCount_downMatrix hkey
    have hghost := heldCount_ghostMatrix hkey
    simp only [scanKey_completes hkey hdue]
    refine ⟨fun hcode hclear _ hheld => ?_, fun hdiodes hcorners => ⟨fun hfew => ?_, fun hnormal hover => ⟨?_, ?_⟩⟩,
      fun hclear hnormal hover => ⟨?_, ?_⟩, fun hclear hnormal hheld hcode => ?_, fun hclear hmashed => ?_⟩
    · exact completeKey_unmapped (.inl hclear) (Nat.le_trans (Nat.le_of_eq hdown) hheld) hcode
    · have hsuspect := (ghostSuspect_iff (s.matrix m) p).mpr hcorners
      rw [completeKey_ghost (by rw [hdiodes, hsuspect]; rfl)]
      exact mashCheck_of_not (hfew.imp_right fun h => Nat.le_trans (Nat.le_of_eq hghost) h)
    · intro phase hstate hroom
      have hsuspect := (ghostSuspect_iff (s.matrix m) p).mpr hcorners
      rw [completeKey_ghost (by rw [hdiodes, hsuspect]; rfl)]
      exact mashCheck_review hnormal (by rw [hghost]; exact Nat.lt_succ_of_le hover) rfl hstate hroom
    · intro hstate
      have hsuspect := (ghostSuspect_iff (s.matrix m) p).mpr hcorners
      rw [completeKey_ghost (by rw [hdiodes, hsuspect]; rfl)]
      exact mashCheck_off hnormal (by rw [hghost]; exact Nat.lt_succ_of_le hover) rfl hstate
    · intro phase hstate hroom
      refine completeKey_mashing hclear
        (mashCheck_review hnormal (by rw [hdown]; exact Nat.lt_succ_of_le hover) rfl hstate hroom) ?_
      exact congrArg MatrixState.condition (State.matrix_setMatrix_self s m _)
    · intro hstate
      refine completeKey_mashing hclear
        (mashCheck_off hnormal (by rw [hdown]; exact Nat.lt_succ_of_le hover) rfl hstate) ?_
      exact congrArg MatrixState.condition (State.matrix_setMatrix_self s m _)
    · rw [completeKey_mapped hclear (Nat.le_trans (Nat.le_of_eq hdown) hheld) hnormal hcode, pressEvent_down]
      rfl
    · exact completeKey_mashed hclear hmashed
  · refine ⟨fun point hstate => ?_, fun point hstate => ⟨?_, fun hpoint hempty => ?_⟩, fun hstate => ?_,
      fun code hcode => routePress_lesson hcode, fun code hpause hlesson => routePress_other hpause hlesson,
      fun code kind => ⟨routeEntry_discarded, fun older newest hqueue hfull hoff hpaused => ?_, fun hroom =>
        ⟨fun point hstate => routeEntry_gone hstate hroom, fun hstate hempty => routeEntry_taken hstate hempty,
          fun phase hstate => routeEntry_review hstate hroom code kind, fun hstate => routeEntry_idle hstate hroom⟩⟩⟩
    · rw [routePress_pause, pauseKey_word hstate, pause_eq hstate, postEvent_eq]
      rfl
    · rw [routePress_pause, pauseKey_paused hstate]
    · subst hpoint
      rcases hstate with h | h
      · exact resume_entry h hempty
      · exact resume_entry h hempty
    · rw [routePress_pause, pauseKey_resting hstate]
    · rw [routeEntry_lost hfull hoff hpaused, loseKey_eq hqueue]

end Sys2Proof.Proofs.Scanner
end

section
/-! PROOFS. A tick in which one letter key reaches DOWN (R6, R12, R50, R53). -/
namespace Sys2Proof.Proofs.TypedTick
open Sys2Proof Sys2Proof.Machine Sys2Proof.Safety
open Sys2Proof.Proofs.Seats Sys2Proof.Proofs.Drill Sys2Proof.Proofs.Keys Sys2Proof.Proofs.BargeIn
open Sys2Proof.Proofs.TakenKeys Sys2Proof.Proofs.Timers Sys2Proof.Proofs.Scanner Sys2Proof.Proofs.Tick

/-! ## A pass with one key that changes -/

theorem foldl_of_fixed {α β : Type} {f : α → β → α} {l : List β} {a : α} (h : ∀ b ∈ l, f a b = a) : l.foldl f a = a := by
  induction l with
  | nil => rfl
  | cons b l ih =>
    obtain ⟨hb, hl⟩ := List.forall_mem_cons.mp h
    rw [List.foldl_cons, hb, ih hl]

/-- One position of a pass acts, and the others leave the state before and after it. -/
theorem scanRest_of_one {m : Seat} {readings : BitVec 64} {p : Position} {s t : State}
    (hbefore : ∀ q, q ≠ p.val → scanPosition m readings q s = s) (hat : scanPosition m readings p.val s = t)
    (hafter : ∀ q, q ≠ p.val → scanPosition m readings q t = t) : scanRest m readings 0 s = t := by
  obtain ⟨before, after, hsplit⟩ := List.append_of_mem (List.mem_range.mpr p.isLt)
  have hnodup : (before ++ p.val :: after).Nodup := hsplit ▸ List.nodup_range
  obtain ⟨-, hrest, hapart⟩ := List.nodup_append.mp hnodup
  have hb : p.val ∉ before := fun h => hapart _ h _ List.mem_cons_self rfl
  have ha : p.val ∉ after := (List.nodup_cons.mp hrest).1
  have hpass : scanRest m readings 0 s = (before ++ p.val :: after).foldl (fun t q => scanPosition m readings q t) s := by
    rw [← hsplit]
    rfl
  rw [hpass, List.foldl_append, foldl_of_fixed fun q hq => hbefore q fun he => hb (he ▸ hq), List.foldl_cons, hat,
    foldl_of_fixed fun q hq => hafter q fun he => ha (he ▸ hq)]

theorem getLsbD_reading (p : Position) (q : Nat) : (1#64 <<< p.val).getLsbD q = decide (q = p.val) := by
  have hp : p.val < 64 := p.isLt
  rw [BitVec.getLsbD_shiftLeft, BitVec.getLsbD_one]
  by_cases hq : q = p.val
  · rw [hq]
    simp [hp]
  · by_cases hlt : q < p.val
    · simp [hlt, hq]
    · have hsub : q - p.val ≠ 0 := by omega
      simp [hq, hsub]

/-- The keys of a matrix on which one key is not up. -/
def oneKey (p : Position) (key : KeyState) : Vector KeyState 64 := (Vector.replicate 64 KeyState.up).set p.val key

theorem getD_oneKey (p : Position) (key : KeyState) (q : Nat) :
    (oneKey p key).toList.getD q .up = if q = p.val then key else .up := by
  have hp : p.val < 64 := p.isLt
  rw [oneKey, Vector.toList_set, Vector.toList_replicate, List.getD_eq_getElem?_getD, List.getElem?_set,
    List.length_replicate, List.getElem?_replicate]
  by_cases hq : q = p.val
  · rw [if_pos hq.symm, if_pos hq, if_pos hp]
    rfl
  · rw [if_neg fun he => hq he.symm, if_neg hq]
    split <;> rfl

theorem oneKey_at (p : Position) (key : KeyState) : (oneKey p key)[p.val] = key := Vector.getElem_set_self _

theorem set_oneKey (p : Position) (key key' : KeyState) : (oneKey p key).set p.val key' = oneKey p key' :=
  Vector.set_set ..

theorem ghostSuspect_oneKey {x : MatrixState} {p : Position} {n : Nat} (h : x.keys = oneKey p (.settlingDown n)) :
    ghostSuspect x p = false := by
  refine Bool.eq_false_iff.mpr fun hsuspect => ?_
  obtain ⟨r, c, _, _, _, _, hheld, _⟩ := (ghostSuspect_iff x p).mp hsuspect
  rw [h, getD_oneKey] at hheld
  split at hheld <;> cases hheld

theorem heldCount_oneKey (p : Position) (n : Nat) : (oneKey p (.settlingDown n)).toList.countP isHeld = 0 := by
  rw [oneKey, Vector.toList_set, Vector.toList_replicate, List.countP_eq_zero]
  intro key hkey
  rcases List.mem_or_eq_of_mem_set hkey with h | h
  · rw [List.eq_of_mem_replicate h]
    decide
  · rw [h]
    nofun

/-! ## The letter -/

/-- With nothing of the seat to cut, barge-in does nothing. -/
theorem bargeInIfOn_silent {k : Seat} {s : State} (hprompt : s.lane (.prompt k) = []) (hflight : s.link.inFlight = none) :
    bargeInIfOn k s = s := by
  have hqueued : queuedIn (.prompt k) (isDrillPrompt k) s = [] := by rw [queuedIn, hprompt]; rfl
  have hentry : inFlightEntry s = none := by rw [inFlightEntry, hflight]
  have hnone : bargeIn k s = s := by
    rw [bargeIn, hqueued]
    exact markCutPending_of_not fun e he => nomatch hentry.symm.trans he
  rw [bargeInIfOn, hnone, ite_self]

/-- The symbol of a letter typed in WHOLE mode. -/
def typedSymbol (letter : Byte) : Symbol := { letter := letter, origin := .typed, mark := .unchecked }

/-- A letter has joined a silent seat's line, and its echo waits. -/
def letterEchoed (k : Seat) (letter : Byte) (s : State) : State :=
  { s with
    seats := s.seats.set k { woken (s.seat k) with line := (s.seat k).line ++ [typedSymbol letter] },
    lanes :=
      { s.lanes with echo := s.lanes.echo.set k [freshEntry s (.letter letter) .drillEcho (some k) none 0] },
    nextEntryId := s.nextEntryId + 1,
    mirror :=
      { s.mirror with
        live :=
          s.mirror.live.set k
            { s.mirror.live.get k with
              generation := (s.mirror.live.get k).generation + 1,
              symbols := (s.seat k).line ++ [typedSymbol letter] } } }

section Letter
variable {k : Seat} {letter : Byte} {s : State}

theorem echoJoined_empty (h : s.lane (.echo k) = []) (content : Content) :
    echoJoined k content s =
      { s with
        lanes := { s.lanes with echo := s.lanes.echo.set k [freshEntry s content .drillEcho (some k) none 0] },
        nextEntryId := s.nextEntryId + 1 } := by
  have hroom : (s.lane (.echo k)).length < 8 := by rw [h]; decide
  simp only [echoJoined, if_pos hroom]
  rw [h, List.nil_append]

theorem takeKey_letterEchoed {e : KeyEntry} (hkind : e.kind ≠ .mash) (hlow : 1 ≤ e.code.toNat) (hhigh : e.code.toNat ≤ 27)
    (hstate : (s.seat k).state = .entry) (hshows : Shows k s) (hroom : (s.seat k).line.length < 20)
    (hcheck : (s.seat k).settings.check = .whole) (hecho : (s.seat k).settings.echo = true)
    (hprompt : s.lane (.prompt k) = []) (hlane : s.lane (.echo k) = []) (hflight : s.link.inFlight = none) :
    takeKey k e s = letterEchoed k e.code s := by
  have hmark : typedMark (woken (s.seat k)).settings.check (s.target k) ((s.seat k).line.length + 1) e.code = .unchecked := by
    rw [show (woken (s.seat k)).settings = (s.seat k).settings from rfl, hcheck]
    rfl
  have hlive := liveWith_line hshows (line := (s.seat k).line ++ [typedSymbol e.code]) (by simp)
  have hcontext : ({ woken (s.seat k) with state := .entry, line := (s.seat k).line ++ [typedSymbol e.code] } : SeatContext)
      = { woken (s.seat k) with line := (s.seat k).line ++ [typedSymbol e.code] } := by rw [← hstate]; rfl
  rw [hstate] at hlive
  rw [takeKey_letter k s hkind hlow hhigh, takeLetter_eq, bargeInIfOn_silent (s := woke k s) hprompt hflight, woke,
    letterTyped_room (c := woken (s.seat k)) (s := s) rfl rfl hroom hmark,
    letterSpoken_right (mark := .unchecked) (by nofun), if_pos hecho, echoJoined_empty hlane, letterEchoed, ← hlive,
    ← hcontext]
  rfl

end Letter

/-! ## The passes -/

section Pass
variable {k : Seat} {p : Position} {n : Nat} {s : State}
variable (hkeys : (s.matrix k).keys = oneKey p (.settlingDown n)) (hdue : s.timing.debounce.toNat ≤ n + 1)
variable (hlimit : 1 ≤ s.timing.mashLimit.toNat) (hnormal : (s.matrix k).condition = .normal)
include hkeys hdue hlimit hnormal

/-- A letter key that reaches DOWN alone is routed to its seat. -/
theorem scanKey_letter (hlow : 1 ≤ (s.matrix k).keymap[p.val].toNat) (hhigh : (s.matrix k).keymap[p.val].toNat ≤ 27) :
    scanKey k p true s =
      routeEntry k (s.matrix k).keymap[p.val] .press (s.setMatrix k (downMatrix p (s.matrix k))) := by
  generalize hcode : (s.matrix k).keymap[p.val] = code at hlow hhigh
  have hkey : (s.matrix k).keys[p.val] = .settlingDown n := by simp only [hkeys, oneKey_at]
  have hheld : heldCount (downMatrix p (s.matrix k)) ≤ s.timing.mashLimit.toNat := by
    rw [heldCount_downMatrix hkey, hkeys, heldCount_oneKey]
    exact hlimit
  have hmapped : (s.matrix k).keymap[p.val] ≠ 0 := by
    rw [hcode]
    rintro rfl
    exact absurd hlow (by decide)
  have herase : code ≠ 32 := by
    rintro rfl
    exact absurd hhigh (by decide)
  have hpause : code ≠ 36 := by
    rintro rfl
    exact absurd hhigh (by decide)
  rw [scanKey_completes hkey hdue, completeKey_mapped (.inl (ghostSuspect_oneKey hkeys)) hheld hnormal hmapped,
    pressEvent_down, hcode, if_neg herase, routePress_other hpause fun h => absurd (Nat.le_trans h.1 hhigh) (by decide)]
  rfl

end Pass

/-- A pass in which a lone key acts and then stays DOWN. -/
theorem scanRest_of_oneKey {k : Seat} {p : Position} {key key' : KeyState} {s t : State}
    (hkeys : (s.matrix k).keys = oneKey p key) (hkeys' : (t.matrix k).keys = oneKey p key')
    (hrepeat : (s.matrix k).repeating = none) (hrepeat' : (t.matrix k).repeating = none)
    (hat : scanKey k p true s = t) : scanRest k (1#64 <<< p.val) 0 s = t := by
  have hother : ∀ q, q ≠ p.val → (1#64 <<< p.val).getLsbD q = false := fun q hq => by
    rw [getLsbD_reading]
    exact decide_eq_false hq
  refine scanRest_of_one (fun q hq => scanPosition_of_up ?_ hrepeat (hother q hq)) ?_
    (fun q hq => scanPosition_of_up ?_ hrepeat' (hother q hq))
  · rw [hkeys, getD_oneKey, if_neg hq]
  · have hread : (1#64 <<< p.val).getLsbD p.val = true := by
      rw [getLsbD_reading]
      exact decide_eq_true rfl
    rw [scanPosition, dif_pos p.isLt, hread]
    exact hat
  · rw [hkeys', getD_oneKey, if_neg hq]

/-- A matrix with no key down, at a pass that reads none. -/
theorem scanRest_of_replicate {m : Seat} {s : State} (hkeys : (s.matrix m).keys = Vector.replicate 64 KeyState.up)
    (hrepeat : (s.matrix m).repeating = none) : scanRest m 0 0 s = s := by
  refine scanRest_of_up (fun p => ?_) hrepeat (fun p => BitVec.getLsbD_zero) 0
  rw [hkeys, Vector.toList_replicate, List.getD_eq_getElem?_getD, List.getElem?_replicate]
  split <;> rfl

/-- The two passes of a tick in which one matrix reads something. -/
theorem scanPasses_one {k : Seat} {reading : BitVec 64} {s t : State} (hpass : scanRest k reading 0 s = t)
    (hother : ∀ m, m ≠ k → ∀ x, x = s ∨ x = t → scanRest m 0 0 x = x)
    (hend : ∀ m, (t.matrix m).condition = .normal) :
    scanPasses (if k = .a then reading else 0) (if k = .a then 0 else reading) [] 0 0 s = t := by
  cases k with
  | a =>
    change endPass .b (endPass .a (scanRest .b 0 0 (scanRest .a reading 0 s))) = t
    rw [hpass, hother .b nofun t (.inr rfl), endPass_of_normal (hend .a), endPass_of_normal (hend .b)]
  | b =>
    change endPass .b (endPass .a (scanRest .b reading 0 (scanRest .a 0 0 s))) = t
    rw [hother .a nofun s (.inl rfl), hpass, endPass_of_normal (hend .a), endPass_of_normal (hend .b)]

theorem otherSeat_of_ne {m k : Seat} (h : m ≠ k) : m = otherSeat k := by
  revert h
  cases m <;> cases k <;> decide

/-- One letter key is about to reach DOWN, and no other key of the two matrices is down. -/
structure LoneLetter (k : Seat) (p : Position) (n : Nat) (letter : Byte) (s : State) : Prop where
  keys : (s.matrix k).keys = oneKey p (.settlingDown n)
  due : s.timing.debounce.toNat ≤ n + 1
  limit : 1 ≤ s.timing.mashLimit.toNat
  code : (s.matrix k).keymap[p.val] = letter
  low : 1 ≤ letter.toNat
  high : letter.toNat ≤ 27
  otherKeys : (s.matrix (otherSeat k)).keys = Vector.replicate 64 KeyState.up
  normal : ∀ m, (s.matrix m).condition = .normal
  still : ∀ m, (s.matrix m).repeating = none

/-- A seat in ENTRY that nothing is speaking to, with room on its line, in WHOLE mode with echo, and no key waiting. -/
structure SilentEntry (k : Seat) (s : State) : Prop where
  state : (s.seat k).state = .entry
  shows : Shows k s
  room : (s.seat k).line.length < 20
  check : (s.seat k).settings.check = .whole
  echo : (s.seat k).settings.echo = true
  keys : s.keyQueue k = []
  prompts : s.lane (.prompt k) = []
  echoes : s.lane (.echo k) = []
  flight : s.link.inFlight = none

/-- The state once the key is DOWN, before it is routed. -/
def keyDown (k : Seat) (p : Position) (s : State) : State := s.setMatrix k (downMatrix p (s.matrix k))

theorem downMatrix_still {p : Position} {x : MatrixState} (h : x.repeating = none) :
    downMatrix p x = { x with keys := x.keys.set p.val .down } := by rw [downMatrix, ← h]

theorem SilentEntry.later {k : Seat} {s : State} (h : SilentEntry k s) : SilentEntry k (millisecondLater s) := by
  have hseat : (millisecondLater s).seat k = afterMillisecond (s.seat k) := seat_millisecondLater k s
  have htarget : (millisecondLater s).target k = s.target k := target_congr rfl (by rw [hseat]; rfl)
  obtain ⟨hstate, hlength, htries, hline⟩ := h.shows
  refine ⟨?_, ⟨?_, ?_, ?_, ?_⟩, ?_, ?_, ?_, h.keys, h.prompts, h.echoes, h.flight⟩
  · rw [hseat]; exact h.state
  · rw [hseat]; exact hstate
  · rw [htarget]; exact hlength
  · rw [hseat]; exact htries
  · rw [hseat]; exact hline
  · rw [hseat]; exact h.room
  · rw [hseat]; exact h.check
  · rw [hseat]; exact h.echo

theorem SilentEntry.keyDown {k : Seat} {s : State} (h : SilentEntry k s) (p : Position) :
    SilentEntry k (TypedTick.keyDown k p s) :=
  ⟨h.state, h.shows, h.room, h.check, h.echo, h.keys, h.prompts, h.echoes, h.flight⟩

section Typed
variable {k : Seat} {p : Position} {n : Nat} {letter : Byte} {s : State}
variable (hlone : LoneLetter k p n letter s) (hsilent : SilentEntry k s)
include hlone

theorem matrix_letterEchoed :
    (letterEchoed k letter (keyDown k p s)).matrix k =
      { s.matrix k with keys := (s.matrix k).keys.set p.val .down } := by
  rw [← downMatrix_still (hlone.still k)]
  exact State.matrix_setMatrix_self ..

omit hlone in
theorem matrix_letterEchoed_other :
    (letterEchoed k letter (keyDown k p s)).matrix (otherSeat k) = s.matrix (otherSeat k) :=
  State.matrix_setMatrix_other ..

theorem matrix_letterEchoed_still (m : Seat) :
    ((letterEchoed k letter (keyDown k p s)).matrix m).condition = .normal
      ∧ ((letterEchoed k letter (keyDown k p s)).matrix m).repeating = none := by
  by_cases hm : m = k
  · rw [hm, matrix_letterEchoed hlone]
    exact ⟨hlone.normal k, hlone.still k⟩
  · rw [otherSeat_of_ne hm, matrix_letterEchoed_other]
    exact ⟨hlone.normal _, hlone.still _⟩

include hsilent

theorem scanKey_typed : scanKey k p true s = letterEchoed k letter (keyDown k p s) := by
  obtain ⟨hstate, hshows, hroom, hcheck, hecho, hkeys, hprompt, hlane, hflight⟩ := hsilent.keyDown p
  obtain ⟨hone, hdue, hlimit, rfl, hlow, hhigh, _, hnormal, _⟩ := hlone
  rw [scanKey_letter hone hdue hlimit (hnormal k) hlow hhigh]
  refine (routeEntry_taken (s := keyDown k p s) (.inr hstate) hkeys).trans ?_
  exact takeKey_letterEchoed (e := keyEntryAt (s.matrix k).keymap[p.val] .press (keyDown k p s)) nofun hlow hhigh hstate
    hshows hroom hcheck hecho hprompt hlane hflight

theorem scanPasses_typed :
    scanPasses (if k = .a then 1#64 <<< p.val else 0) (if k = .a then 0 else 1#64 <<< p.val) [] 0 0 s =
      letterEchoed k letter (keyDown k p s) := by
  have hdown : ((letterEchoed k letter (keyDown k p s)).matrix k).keys = oneKey p .down := by
    rw [matrix_letterEchoed hlone, hlone.keys]
    exact set_oneKey ..
  refine scanPasses_one
    (scanRest_of_oneKey hlone.keys hdown (hlone.still k) (matrix_letterEchoed_still hlone k).2 (scanKey_typed hlone hsilent))
    (fun m hm y hy => ?_) fun m => (matrix_letterEchoed_still hlone m).1
  rw [otherSeat_of_ne hm]
  rcases hy with rfl | rfl
  · exact scanRest_of_replicate hlone.otherKeys (hlone.still _)
  · exact scanRest_of_replicate (by rw [matrix_letterEchoed_other, hlone.otherKeys])
      (matrix_letterEchoed_still hlone _).2

end Typed

/-- The echo stops the seat's timer (R64). -/
theorem settle_letterEchoed {k : Seat} {letter : Byte} {s x : State} (hl : LinesFollow s) (hseats : x.seats = s.seats)
    (hprompt : x.lane (.prompt (otherSeat k)) = s.lane (.prompt (otherSeat k)))
    (hecho : x.lane (.echo (otherSeat k)) = s.lane (.echo (otherSeat k))) :
    settle (letterEchoed k letter x) =
      { letterEchoed k letter x with
        seats :=
          s.seats.set k
            { woken (s.seat k) with line := (s.seat k).line ++ [typedSymbol letter], idleTimer := none },
        pins := pinLevels (letterEchoed k letter x) } := by
  have hechoes : (letterEchoed k letter x).lane (.echo k) = [freshEntry x (.letter letter) .drillEcho (some k) none 0] :=
    Pair.get_set_self ..
  have hmem : freshEntry x (.letter letter) .drillEcho (some k) none 0
      ∈ (letterEchoed k letter x).lane (.prompt k) ++ (letterEchoed k letter x).lane (.echo k) := by
    rw [hechoes]
    exact List.mem_append_right _ List.mem_cons_self
  have hseat : x.seat k = s.seat k := by rw [State.seat, hseats]; rfl
  have hset : (letterEchoed k letter x).seats = s.seats.set k
      { woken (s.seat k) with line := (s.seat k).line ++ [typedSymbol letter] } := by rw [letterEchoed, hseats, hseat]
  rw [settle_one hl hset hprompt ((Pair.get_set_other ..).trans hecho), idleTimerAfter_of_entry hmem rfl]

/-- Settles O52: nothing is due, the clock moves, the passes find the one key, and the echo stops the timer. -/
theorem tickTypesALetter : Obligations.TickTypesALetter := by
  unfold Obligations.TickTypesALetter
  intro k p n letter s hl hi hkeys hdue hlimit hcode hlow hhigh hnormal hrepeat hkeysO hnormalO hrepeatO hidle hresponse
    hflight hreports hempty hprompt hlane hstate hroom hcheck hecho
  have hboth : ∀ m, (s.matrix m).condition = .normal ∧ (s.matrix m).repeating = none := fun m => by
    by_cases hm : m = k
    · rw [hm]
      exact ⟨hnormal, hrepeat⟩
    · rw [otherSeat_of_ne hm]
      exact ⟨hnormalO, hrepeatO⟩
  have hlone : LoneLetter k p n letter (millisecondLater s) :=
    ⟨hkeys, hdue, hlimit, hcode, hlow, hhigh, hkeysO, fun m => (hboth m).1, fun m => (hboth m).2⟩
  have hsilent : SilentEntry k (millisecondLater s) :=
    SilentEntry.later ⟨hstate, hi k, hroom, hcheck, hecho, hempty, hprompt, hlane, hflight⟩
  have hexec : exec (.lessonClockTick (if k = .a then 1#64 <<< p.val else 0) (if k = .a then 0 else 1#64 <<< p.val) [] []) s
      = .next (settle (letterEchoed k letter (keyDown k p (millisecondLater s)))) := by
    change Host.Outcome.next (settle (scanPasses _ _ [] 0 0 (fireEach [] (advanceClock (fireEach overdueOrder s))))) = _
    rw [fireEach_overdue hl (fun m => (hboth m).2) hidle hresponse hreports, advanceClock_eq fun m => (hboth m).2]
    exact congrArg (fun t => Host.Outcome.next (settle t)) (scanPasses_typed hlone hsilent)
  have hsettle := settle_letterEchoed (k := k) (letter := letter) (x := keyDown k p (millisecondLater s))
    (linesFollow_millisecondLater hl) rfl rfl rfl
  have hline : ((millisecondLater s).seat k).line = (s.seat k).line := by rw [seat_millisecondLater]; rfl
  have hline' : ((keyDown k p (millisecondLater s)).seat k).line = (s.seat k).line := hline
  refine ⟨_, hexec.trans (congrArg Host.Outcome.next hsettle), ?_⟩
  simp only [letterEchoed, hline, hline', ← downMatrix_still (p := p) hrepeat]
  rfl

end Sys2Proof.Proofs.TypedTick
end

section
/-! PROOFS. ENTER on a line (R57, R59, R61, R92). -/
namespace Sys2Proof.Proofs.Enter
open Sys2Proof Sys2Proof.Machine Sys2Proof.Safety
open Sys2Proof.Proofs.Seats Sys2Proof.Proofs.Reports Sys2Proof.Proofs.Drill Sys2Proof.Proofs.Completion
open Sys2Proof.Proofs.Keys

/-! ## The figures of a result -/

theorem newMasteryOf_le (old score gain : Nat) : newMasteryOf old score gain ≤ 255 := by
  have hheld : ∀ x : Int, (max 0 (min 255 x)).toNat ≤ 255 := fun x => by omega
  exact hheld _

theorem byteOf_newMasteryOf (old score gain : Nat) : (byteOf (newMasteryOf old score gain)).toNat = newMasteryOf old score gain :=
  byteOf_toNat (Nat.lt_succ_of_le (newMasteryOf_le old score gain))

theorem dueRoundOf_toNat (round : Word16) (interval : Nat) :
    (dueRoundOf round interval).toNat = min 65535 (round.toNat + interval) := by
  rw [dueRoundOf, BitVec.toNat_ofNat, Nat.min_comm]
  exact Nat.mod_eq_of_lt (by omega)

theorem isFinal_iff (verdict : Verdict) (tries triesAllowed : Byte) :
    isFinal verdict tries triesAllowed = true ↔
      (verdict ≠ .near ∧ verdict ≠ .missed) ∨ triesAllowed.toNat ≤ tries.toNat := by
  cases verdict <;> simp [isFinal]

/-! ## Entering REVIEW -/

/-- A write of another state, verdict and line. -/
theorem liveWith_review {k : Seat} {s : State} (h : Shows k s) {state : ShownState}
    (hne : state ≠ shownState (s.seat k).state) (v : Verdict) (line : List Symbol) :
    liveWith k state (s.target k).length v (s.seat k).tries line s =
      s.mirror.live.set k
        { s.mirror.live.get k with
          generation := (s.mirror.live.get k).generation + 1, state := state, verdict := v, symbols := line } := by
  obtain ⟨h1, h2, h3, h4⟩ := h
  simp only [liveWith]
  rw [if_neg fun e => hne (by rw [← h1, ← e]), ← h2, ← h3]

/-- The seat reviews its word: its feedback has been queued, and its image shows the verdict and the marked line. -/
def reviewing (k : Seat) (h : Handle) (v : Verdict) (line : List Symbol) (c : SeatContext) (s : State) : State :=
  { phraseQueued k h .drillFeedback s with
    seats := s.seats.set k c,
    mirror :=
      { s.mirror with
        live :=
          s.mirror.live.set k
            { s.mirror.live.get k with
              generation := (s.mirror.live.get k).generation + 1, state := .review, verdict := v, symbols := line } } }

section Review
variable {k : Seat} {h : Handle} {v : Verdict} {c : SeatContext} {s : State}

/-- The image write of a seat that enters REVIEW from ENTRY with its feedback queued. -/
theorem writeImage_reviewing (hshows : Shows k s) (hstate : (s.seat k).state = .entry) (f : SeatContext → SeatContext)
    (hreview : shownState (f c).state = .review) (hword : (f c).currentWord = (s.seat k).currentWord)
    (htries : (f c).tries = (s.seat k).tries) :
    writeImage k v ((phraseQueued k h .drillFeedback (reseated k c s)).mapSeat k f) =
      reviewing k h v (f c).line (f c) s := by
  have hseat : (phraseQueued k h .drillFeedback (reseated k c s)).seat k = c := seat_reseated k c s
  have htarget : ((phraseQueued k h .drillFeedback (reseated k c s)).mapSeat k f).target k = s.target k :=
    target_congr rfl (by rw [State.seat_mapSeat_self, hseat, hword])
  have hlive := liveWith_review hshows (state := .review) (by rw [hstate]; nofun) v (f c).line
  rw [writeImage_mapSeat, hseat, htarget, seatShown, hreview, htries, reviewing, ← hlive]
  simp only [phraseQueued, reseated, Pair.set_set]
  rfl

theorem queueFeedback_reseated {slot : Option Handle} (hslot : slot = some h) (hkept : (s.handle h).state = .kept)
    (hroom : (s.lane (.prompt k)).length < 4) :
    queueDrillPhrase k .drillFeedback slot (reseated k c s) =
      some (s.nextEntryId, phraseQueued k h .drillFeedback (reseated k c s)) := by
  rw [hslot]
  exact queueDrillPhrase_kept (s := reseated k c s) hkept hroom

end Review

/-- The context of a seat whose line has just been judged. -/
def judgedSeat (c : SeatContext) (marks : List Mark) : SeatContext :=
  { c with line := applyMarks c.line marks, nudges := 0, idleTimer := none }

section Line
variable {k : Seat} {w : WordIndex} {s : State}

/-- The judgement of a seat's line against a word (R92). -/
def judgementOf (k : Seat) (w : WordIndex) (s : State) : Judgement :=
  judge ((s.seat k).line.map (·.letter)) (s.word w).letters (s.seat k).hints (s.seat k).tries

theorem takeKey_enter_line {e : KeyEntry} (hkind : e.kind ≠ .mash) (hcode : e.code = 33)
    (hword : (s.seat k).currentWord = some w) (hline : (s.seat k).line ≠ []) :
    takeKey k e s =
      if isFinal (judgementOf k w s).verdict (s.seat k).tries (s.seat k).settings.triesAllowed then
        enterFinal k w (judgementOf k w s) (reseated k (judgedSeat (s.seat k) (judgementOf k w s).marks) s)
      else
        enterRetry k (judgementOf k w s).verdict (reseated k (judgedSeat (s.seat k) (judgementOf k w s).marks) s) := by
  have htarget : (woke k s).target k = (s.word w).letters := by rw [target_woke, target_of_some hword]
  have hempty : (woken (s.seat k)).line.isEmpty = false := List.isEmpty_eq_false_iff.mpr hline
  have hcurrent : (woken (s.seat k)).currentWord = some w := hword
  have hattempt : (woke k s).attempt k = (s.seat k).line.map (·.letter) := by
    rw [State.attempt, seat_woke]
    rfl
  have hmarked : ∀ marks, ((woke k s).mapSeat k fun c => { c with line := applyMarks c.line marks, idleTimer := none })
      = reseated k (judgedSeat (s.seat k) marks) s := fun marks => by
    simp only [State.mapSeat, State.setSeat, seat_woke]
    simp only [woke, reseated, Pair.set_set]
    rfl
  rw [takeKey_enter k s hkind hcode, takeEnter]
  simp only [seat_woke, hempty, Bool.false_eq_true, if_false, hcurrent, htarget, hattempt, hmarked]
  rfl

end Line

/-- A result that a seat holds joins a queue with room (R33, R61, R150). -/
def resultPosted (k : Seat) (p : PendingResult) (s : State) : State :=
  { s with
    seats :=
      s.seats.set k
        { s.seat k with
          round := saturatingSucc (s.seat k).round, previousWord := (s.seat k).currentWord, pendingResult := none },
    deck := (recordPosted p s).deck,
    reports := withRecord s (.wordResult p.result) }

theorem tryPost_of_room {k : Seat} {p : PendingResult} {s : State} (hpending : (s.seat k).pendingResult = some p)
    (hroom : s.reports.queue.length < 16) : tryPost k s = resultPosted k p s := by
  unfold tryPost
  simp only [hpending]
  rw [if_pos ((reportRoom_iff s).mpr hroom), takeRecord_eq]
  rfl

/-- The result of a seat that has just entered REVIEW(FINAL) is posted, and the seat waits for its feedback. -/
theorem leaveAfterPost_reviewing {k : Seat} {h : Handle} {v : Verdict} {line : List Symbol} {c : SeatContext}
    {p : PendingResult} {s : State} (hpending : c.pendingResult = some p) (hfeedback : c.reviewFeedback ≠ none)
    (hroom : s.reports.queue.length < 16) :
    leaveReviewIfDone k (tryPost k (reviewing k h v line c s)) =
      { reviewing k h v line
          { c with round := saturatingSucc c.round, previousWord := c.currentWord, pendingResult := none } s with
        deck := (recordPosted p s).deck,
        reports := withRecord s (.wordResult p.result) } := by
  have hseat : (reviewing k h v line c s).seat k = c := Pair.get_set_self ..
  have hposted : ((resultPosted k p (reviewing k h v line c s)).seat k).reviewFeedback = c.reviewFeedback := by
    rw [seat_of_seats (s := reviewing k h v line c s) rfl, hseat]
  rw [tryPost_of_room (s := reviewing k h v line c s) (by rw [hseat]; exact hpending) hroom,
    leaveReviewIfDone_of_not (.inr (.inl (by rw [hposted]; exact hfeedback))), resultPosted, hseat]
  simp only [reviewing, Pair.set_set]
  rfl

section Enter
variable {k : Seat} {w : WordIndex} {h : Handle} {c : SeatContext} {s : State} (hshows : Shows k s)
variable (hstate : (s.seat k).state = .entry) (hcword : c.currentWord = (s.seat k).currentWord)
variable (hctries : c.tries = (s.seat k).tries) (hkept : (s.handle h).state = .kept)
variable (hroom : (s.lane (.prompt k)).length < 4)
include hshows hstate hcword hctries hkept hroom

theorem enterRetry_kept (v : Verdict) (hslot : s.lanes.feedback[4] = some h) :
    enterRetry k v (reseated k c s) =
      reviewing k h v c.line { c with state := .review .retry, reviewFeedback := some s.nextEntryId } s := by
  have hqueue := queueFeedback_reseated (c := c) (slot := (reseated k c s).lanes.feedback[4]) hslot hkept hroom
  unfold enterRetry
  simp only [hqueue]
  exact writeImage_reviewing (c := c) hshows hstate
    (fun c => { c with state := .review .retry, reviewFeedback := some s.nextEntryId }) rfl hcword hctries

/-- A final judgement with room for its result: the result joins the queue, and the deck and the round move (R33, R61). -/
theorem enterFinal_kept (j : Judgement) (hslot : s.lanes.feedback[feedbackSlot j.verdict] = some h)
    (hreports : s.reports.queue.length < 16) :
    enterFinal k w j (reseated k c s) =
      { reviewing k h j.verdict c.line
          { c with
            state := .review .final, reviewFeedback := some s.nextEntryId, pendingResult := none,
            previousWord := c.currentWord, round := saturatingSucc c.round } s with
        deck := (recordPosted (resultOf k w j (reseated k c s)) s).deck,
        reports := withRecord s (.wordResult (resultOf k w j (reseated k c s)).result) } := by
  have hqueue := queueFeedback_reseated (c := c) (slot := (reseated k c s).lanes.feedback[feedbackSlot j.verdict]) hslot
    hkept hroom
  generalize hresult : resultOf k w j (reseated k c s) = result
  have hentered := writeImage_reviewing (v := j.verdict) (c := c) hshows hstate (fun c =>
    { c with state := .review .final, reviewFeedback := some s.nextEntryId, pendingResult := some result }) rfl hcword hctries
    (h := h)
  unfold enterFinal
  simp only [hqueue, hresult, hentered]
  exact leaveAfterPost_reviewing rfl (by nofun) hreports

end Enter

/-- Settles O53: by whether the judgement is final. -/
theorem enterLeadsToReview : Obligations.EnterLeadsToReview := by
  unfold Obligations.EnterLeadsToReview
  intro k w h slot stamp s hi
  simp only
  intro hstate hword hline hslot hkept hroom
  have htaken := takeKey_enter_line (e := { code := 33, kind := .press, stamp := stamp, overrun := false }) nofun rfl hword
    hline
  have hverdict : (judgementOf k w s).verdict
      = verdictOf (distance ((s.seat k).line.map (·.letter)) (s.word w).letters) (s.seat k).hints := rfl
  refine ⟨fun ⟨hlow, htries⟩ hfour => ?_, fun hfinal hverdictSlot hreports => ?_⟩
  · subst hfour
    have hretry : isFinal (judgementOf k w s).verdict (s.seat k).tries (s.seat k).settings.triesAllowed = false := by
      refine Bool.eq_false_iff.mpr fun hf => ?_
      rcases (isFinal_iff _ _ _).mp hf with ⟨hnear, hmissed⟩ | hspent
      · exact hlow.elim hnear hmissed
      · exact Nat.not_le_of_lt htries hspent
    rw [htaken, hretry, if_neg Bool.false_ne_true]
    exact enterRetry_kept (c := judgedSeat (s.seat k) (judgementOf k w s).marks) (hi k) hstate rfl rfl hkept hroom _ hslot
  · have hyes : isFinal (judgementOf k w s).verdict (s.seat k).tries (s.seat k).settings.triesAllowed = true :=
      (isFinal_iff _ _ _).mpr hfinal
    obtain rfl : slot = feedbackSlot (judgementOf k w s).verdict := by
      rw [hverdictSlot, hverdict]
      generalize verdictOf _ _ = v
      cases v <;> rfl
    refine ⟨_, _, byteOf_newMasteryOf _ _ _, dueRoundOf_toNat _ _, ?_⟩
    rw [htaken, hyes, if_pos rfl, enterFinal_kept (c := judgedSeat (s.seat k) (judgementOf k w s).marks) (hi k) hstate
      rfl rfl hkept hroom _ hslot hreports]
    simp only [resultOf, seat_reseated, recordPosted, saturatingSucc_word, judgedSeat, hword]
    rfl

end Sys2Proof.Proofs.Enter
end

section
/-! PROOFS. The drill cycle does not look at the Lesson Port: what resumes a seat does the same whatever the port holds. -/
namespace Sys2Proof.Proofs.Ported
open Sys2Proof Sys2Proof.Machine Sys2Proof.Safety
open Sys2Proof.Proofs.Reports Sys2Proof.Proofs.Drill Sys2Proof.Proofs.Completion Sys2Proof.Proofs.Keys

/-- The state with another port. -/
def ported (p : LessonPort) (s : State) : State := { s with port := p }

/-- An operation that neither reads nor writes the port. -/
def PortFree (f : State → State) : Prop := ∀ p s, f (ported p s) = ported p (f s)

theorem PortFree.comp {f g : State → State} (hf : PortFree f) (hg : PortFree g) : PortFree fun s => f (g s) := fun p s =>
  (congrArg f (hg p s)).trans (hf p (g s))

theorem PortFree.ite {c : State → Prop} [∀ s, Decidable (c s)] {f g : State → State} (hc : ∀ p s, c (ported p s) ↔ c s)
    (hf : PortFree f) (hg : PortFree g) : PortFree fun s => if c s then f s else g s := fun p s => by
  simp only [hf p s, hg p s, apply_ite (ported p)]
  exact ite_congr (propext (hc p s)) (fun _ => rfl) fun _ => rfl

theorem portFree_id : PortFree fun s => s := fun _ _ => rfl

theorem portFree_mapSeat (k : Seat) (f : SeatContext → SeatContext) : PortFree fun s => s.mapSeat k f := fun _ _ => rfl

/-! ## Lanes and records -/

theorem portFree_queueEcho (k : Seat) (content : Content) : PortFree (queueEcho k content) := fun p s => by
  rw [queueEcho_eq, queueEcho_eq]
  rfl

theorem portFree_queueBump (k : Seat) : PortFree (queueBump k) := portFree_queueEcho k _

theorem portFree_offerRecord (body : Report) : PortFree (offerRecord body) := fun p s => by
  rw [offerRecord_eq, offerRecord_eq]
  rfl

theorem portFree_postEvent (k : Seat) (event : SeatEvent) : PortFree (postEvent k event) := fun p s => by
  rw [postEvent_eq, postEvent_eq]
  rfl

theorem queueDrillPhrase_ported (k : Seat) (origin : SpeechOrigin) (h : Option Handle) (p : LessonPort) (s : State) :
    queueDrillPhrase k origin h (ported p s) = (queueDrillPhrase k origin h s).map fun x => (x.1, ported p x.2) := by
  by_cases hjoins : ∃ g, h = some g ∧ (s.handle g).state = .kept ∧ (s.lane (.prompt k)).length < 4
  · obtain ⟨g, rfl, hkept, hroom⟩ := hjoins
    rw [queueDrillPhrase_kept (s := ported p s) hkept hroom, queueDrillPhrase_kept hkept hroom]
    rfl
  · have hmissing : ∀ g, h = some g → (s.handle g).state ≠ .kept ∨ 4 ≤ (s.lane (.prompt k)).length := fun g hg => by
      refine Classical.byContradiction fun hno => ?_
      rw [not_or, Classical.not_not, Nat.not_le] at hno
      exact hjoins ⟨g, hg, hno⟩
    rw [queueDrillPhrase_missing (s := ported p s) hmissing, queueDrillPhrase_missing hmissing]
    rfl

theorem portFree_queueOrSkip (k : Seat) (origin : SpeechOrigin) (h : Option Handle) :
    PortFree (queueOrSkip k origin h) := fun p s => by
  rw [queueOrSkip, queueOrSkip, queueDrillPhrase_ported]
  cases queueDrillPhrase k origin h s <;> rfl

theorem portFree_releaseReference (h : Handle) : PortFree (releaseReference h) :=
  PortFree.comp (f := returnPages h) (PortFree.ite (fun _ _ => Iff.rfl) (fun _ _ => rfl) portFree_id) fun _ _ => rfl

theorem portFree_removeEntry (i : LaneId) (e : SpeechEntry) : PortFree (removeEntry i e) := fun p s => by
  unfold removeEntry
  cases e.content with
  | phrase h =>
    simp only [portFree_releaseReference h p s]
    rfl
  | letter _ => rfl
  | cue _ => rfl

theorem portFree_leaveLane (i : LaneId) (o : SpeechOutcome) (e : SpeechEntry) : PortFree (leaveLane i o e) := fun p s => by
  unfold leaveLane
  simp only [portFree_removeEntry i e p s, portFree_offerRecord _ p _]
  split <;> rfl

theorem portFree_leaveEach (i : LaneId) (o : SpeechOutcome) {told : SpeechEntry → State → State}
    (htold : ∀ e, PortFree (told e)) (es : List SpeechEntry) : PortFree (leaveEach i o told es) := fun p s => by
  induction es generalizing s with
  | nil => rfl
  | cons e es ih =>
    have hstep : ∀ t, leaveEach i o told (e :: es) t = leaveEach i o told es (told e (leaveLane i o e t)) := fun _ => rfl
    rw [hstep, hstep, portFree_leaveLane, htold, ih]

theorem portFree_markCutPending (which : SpeechEntry → Bool) : PortFree (markCutPending which) := fun p s => by
  have hentry : inFlightEntry (ported p s) = inFlightEntry s := rfl
  unfold markCutPending setInFlightEntry
  rw [hentry, show (ported p s).link = s.link from rfl]
  cases inFlightEntry s with
  | none => rfl
  | some e =>
    cases s.link.inFlight with
    | none => simp only [ite_self]
    | some u => simp only [apply_ite (ported p)]; rfl

/-! ## Presenting, posting, leaving REVIEW -/

theorem portFree_clearForWord (k : Seat) (w : WordIndex) : PortFree (clearForWord k w) := fun p s => by
  rw [clearForWord_eq, clearForWord_eq]
  rfl

theorem portFree_present (k : Seat) (w : WordIndex) : PortFree (present k w) := fun p s => by
  have hword : (ported p s).word w = s.word w := rfl
  rw [present, present, hword, portFree_clearForWord, queueDrillPhrase_ported]
  cases queueDrillPhrase k .drillPrompt (s.word w).prompt (clearForWord k w s) with
  | some x => rfl
  | none =>
    exact portFree_postEvent k .noPrompt p
      (writeImage k .none ((clearForWord k w s).mapSeat k fun c => { c with state := .entry }))

theorem portFree_toIdle (k : Seat) : PortFree (toIdle k) := fun _ _ => rfl

theorem portFree_presentPick (k : Seat) : PortFree (presentPick k) := fun p s => by
  have hpick : pickWord k (ported p s) = pickWord k s := Pick.pickWord_of_deck_eq rfl rfl
  rw [presentPick, presentPick, hpick]
  cases pickWord k s with
  | some w => exact portFree_present k w p s
  | none => exact portFree_postEvent k .deckEmpty p (toIdle k s)

theorem portFree_tryPost (k : Seat) : PortFree (tryPost k) := fun p s => by
  have hseat : (ported p s).seat k = s.seat k := rfl
  unfold tryPost
  rw [hseat]
  cases (s.seat k).pendingResult with
  | none => rfl
  | some result =>
    simp only [takeRecord_eq]
    rw [apply_ite (ported p)]
    rfl

theorem portFree_leaveReviewIfDone (k : Seat) : PortFree (leaveReviewIfDone k) :=
  PortFree.ite (fun _ _ => Iff.rfl) (PortFree.ite (fun _ _ => Iff.rfl) (portFree_presentPick k) (portFree_toIdle k))
    portFree_id

theorem portFree_retryIfDone (k : Seat) : PortFree (retryIfDone k) :=
  PortFree.ite (fun _ _ => Iff.rfl) (fun _ _ => rfl) portFree_id

theorem portFree_promptDone (k : Seat) : PortFree (promptDone k) := fun p s => by
  have hseat : (ported p s).seat k = s.seat k := rfl
  unfold promptDone
  rw [hseat]
  split <;> rfl

theorem portFree_feedbackDone (k : Seat) : PortFree (feedbackDone k) :=
  ((portFree_leaveReviewIfDone k).comp (portFree_retryIfDone k)).comp (portFree_mapSeat k _)

theorem portFree_tellSeat (e : SpeechEntry) : PortFree (tellSeat e) := fun p s => by
  unfold tellSeat
  cases e.seat with
  | none => rfl
  | some k =>
    exact PortFree.ite (c := fun t => (t.seat k).presentationPrompt = some e.id) (fun _ _ => Iff.rfl) (portFree_promptDone k)
      (PortFree.ite (c := fun t => (t.seat k).reviewFeedback = some e.id) (fun _ _ => Iff.rfl) (portFree_feedbackDone k)
        portFree_id) p s

/-! ## Taking keys -/

theorem portFree_bargeIn (k : Seat) : PortFree (bargeIn k) := fun p s => by
  have hqueued : queuedIn (.prompt k) (isDrillPrompt k) (ported p s) = queuedIn (.prompt k) (isDrillPrompt k) s := rfl
  rw [bargeIn, bargeIn, hqueued, portFree_leaveEach _ _ portFree_tellSeat, portFree_markCutPending]

theorem portFree_bargeInIfOn (k : Seat) : PortFree (bargeInIfOn k) :=
  PortFree.ite (c := fun s => (s.seat k).settings.bargeIn = true) (fun _ _ => Iff.rfl) (portFree_bargeIn k) portFree_id

theorem portFree_letterSpoken (k : Seat) (letter : Byte) (mark : Mark) : PortFree (letterSpoken k letter mark) := fun p s => by
  unfold letterSpoken
  rw [apply_ite (ported p), apply_ite (ported p)]
  rfl

theorem portFree_takeLetter (k : Seat) (letter : Byte) : PortFree (takeLetter k letter) := fun p s => by
  rw [takeLetter_eq, takeLetter_eq, portFree_bargeInIfOn]
  generalize bargeInIfOn k s = t
  simp only [letterTyped, portFree_letterSpoken k letter _ p t]
  rw [apply_ite (ported p)]
  rfl

theorem portFree_takeErase (k : Seat) : PortFree (takeErase k) :=
  PortFree.ite (fun _ _ => Iff.rfl) (portFree_queueBump k) fun _ _ => rfl

theorem portFree_takeHint (k : Seat) : PortFree (takeHint k) := fun p s => by
  rw [takeHint_eq, takeHint_eq, portFree_bargeInIfOn]
  generalize bargeInIfOn k s = t
  have htarget : (ported p t).target k = t.target k := rfl
  have hattempt : (ported p t).attempt k = t.attempt k := rfl
  have hseat : (ported p t).seat k = t.seat k := rfl
  unfold hintGiven
  simp only [htarget, hattempt, hseat]
  cases (t.target k)[correctPrefix (t.attempt k) (t.target k)]? with
  | none => rfl
  | some letter =>
    cases (t.seat k).settings.echo <;> rfl

theorem replayWord_ported (k : Seat) (r : WordRecord) (p : LessonPort) (s : State) :
    replayWord k r (ported p s) = ((replayWord k r s).1, ported p (replayWord k r s).2) := by
  simp only [replayWord, queueDrillPhrase_ported]
  cases queueDrillPhrase k .drillPrompt r.prompt s with
  | some x => exact congrArg (Prod.mk true) (portFree_queueOrSkip k _ _ p x.2)
  | none => cases queueDrillPhrase k .drillPrompt r.sentence s <;> rfl

theorem replayCounted_ported (k : Seat) (p : LessonPort) (r : Bool × State) :
    replayCounted k (r.1, ported p r.2) = ported p (replayCounted k r) := by
  obtain ⟨queued, t⟩ := r
  cases queued with
  | true => rfl
  | false => exact portFree_queueBump k p t

theorem takeSayAgain_eq (k : Seat) (s : State) :
    takeSayAgain k s =
      if (seatEntries k s).any (isDrillPrompt k) then s
      else ((s.seat k).currentWord.map fun w => replayCounted k (replayWord k (s.word w) s)).getD s := by
  unfold takeSayAgain replayCounted
  refine ite_congr rfl (fun _ => rfl) fun _ => ?_
  cases (s.seat k).currentWord <;> rfl

theorem portFree_takeSayAgain (k : Seat) : PortFree (takeSayAgain k) := fun p s => by
  have hany : (seatEntries k (ported p s)).any (isDrillPrompt k) = (seatEntries k s).any (isDrillPrompt k) := rfl
  have hseat : (ported p s).seat k = s.seat k := rfl
  have hword : ∀ w, (ported p s).word w = s.word w := fun _ => rfl
  rw [takeSayAgain_eq, takeSayAgain_eq, apply_ite (ported p), hany, hseat]
  refine ite_congr rfl (fun _ => rfl) fun _ => ?_
  cases (s.seat k).currentWord with
  | none => rfl
  | some w =>
    simp only [Option.map_some, Option.getD_some, hword, replayWord_ported]
    exact replayCounted_ported k p _

theorem portFree_takeMash (k : Seat) : PortFree (takeMash k) := fun p s =>
  (portFree_postEvent k .mash).comp (portFree_queueOrSkip k .drillFeedback s.lanes.feedback[6]) p s

theorem portFree_enterRetry (k : Seat) (v : Verdict) : PortFree (enterRetry k v) := fun p s => by
  have hslot : (ported p s).lanes.feedback[4] = s.lanes.feedback[4] := rfl
  unfold enterRetry
  simp only [hslot, queueDrillPhrase_ported]
  cases queueDrillPhrase k .drillFeedback s.lanes.feedback[4] s <;> rfl

/-- The image write of a seat that enters REVIEW(FINAL). -/
def finalEntered (k : Seat) (v : Verdict) (result : PendingResult) (feedback : Option Nat) (t : State) : State :=
  writeImage k v
    (t.mapSeat k fun c => { c with state := .review .final, reviewFeedback := feedback, pendingResult := some result })

theorem enterFinal_eq (k : Seat) (w : WordIndex) (j : Judgement) (s : State) :
    enterFinal k w j s =
      leaveReviewIfDone k (tryPost k
        (((queueDrillPhrase k .drillFeedback s.lanes.feedback[feedbackSlot j.verdict] s).map fun x =>
            finalEntered k j.verdict (resultOf k w j s) (some x.1) x.2).getD
          (finalEntered k j.verdict (resultOf k w j s) none s))) := by
  unfold enterFinal
  cases queueDrillPhrase k .drillFeedback s.lanes.feedback[feedbackSlot j.verdict] s <;> rfl

theorem portFree_enterFinal (k : Seat) (w : WordIndex) (j : Judgement) : PortFree (enterFinal k w j) := fun p s => by
  have hslot : (ported p s).lanes.feedback[feedbackSlot j.verdict] = s.lanes.feedback[feedbackSlot j.verdict] := rfl
  have hresult : resultOf k w j (ported p s) = resultOf k w j s := rfl
  have hentered : ∀ feedback t, finalEntered k j.verdict (resultOf k w j s) feedback (ported p t)
      = ported p (finalEntered k j.verdict (resultOf k w j s) feedback t) := fun _ _ => rfl
  rw [enterFinal_eq, enterFinal_eq, hslot, hresult, queueDrillPhrase_ported]
  cases queueDrillPhrase k .drillFeedback s.lanes.feedback[feedbackSlot j.verdict] s with
  | some x =>
    simp only [Option.map_some, Option.getD_some, hentered]
    rw [portFree_tryPost, portFree_leaveReviewIfDone]
  | none =>
    simp only [Option.map_none, Option.getD_none, hentered]
    rw [portFree_tryPost, portFree_leaveReviewIfDone]

theorem portFree_takeEnter (k : Seat) : PortFree (takeEnter k) := by
  refine PortFree.ite (fun _ _ => Iff.rfl) (portFree_queueBump k) fun p s => ?_
  have hseat : (ported p s).seat k = s.seat k := rfl
  simp only [hseat]
  cases (s.seat k).currentWord with
  | none => rfl
  | some w =>
    exact PortFree.ite (c := fun t => isFinal (judge (t.attempt k) (t.target k) (t.seat k).hints (t.seat k).tries).verdict
      (t.seat k).tries (t.seat k).settings.triesAllowed = true) (fun _ _ => Iff.rfl)
      (f := fun t => enterFinal k w (judge (s.attempt k) (s.target k) (s.seat k).hints (s.seat k).tries)
        (t.mapSeat k fun c => { c with
          line := applyMarks c.line (judge (s.attempt k) (s.target k) (s.seat k).hints (s.seat k).tries).marks,
          idleTimer := none }))
      (g := fun t => enterRetry k (judge (s.attempt k) (s.target k) (s.seat k).hints (s.seat k).tries).verdict
        (t.mapSeat k fun c => { c with
          line := applyMarks c.line (judge (s.attempt k) (s.target k) (s.seat k).hints (s.seat k).tries).marks,
          idleTimer := none }))
      ((portFree_enterFinal k w _).comp (portFree_mapSeat k _)) ((portFree_enterRetry k _).comp (portFree_mapSeat k _)) p s

theorem portFree_takeKey (k : Seat) (e : KeyEntry) : PortFree (takeKey k e) := by
  have hwoke : PortFree (woke k) := fun _ _ => rfl
  by_cases hmash : e.kind = .mash
  · rw [show takeKey k e = fun s => takeMash k (woke k s) from funext fun s => takeKey_mash k e s hmash]
    exact (portFree_takeMash k).comp hwoke
  · rw [show takeKey k e = _ from funext fun s => takeKey_of_press k s hmash]
    refine PortFree.ite (fun _ _ => Iff.rfl) ((portFree_takeLetter k _).comp hwoke) ?_
    refine PortFree.ite (fun _ _ => Iff.rfl) ((portFree_takeErase k).comp hwoke) ?_
    refine PortFree.ite (fun _ _ => Iff.rfl) ((portFree_takeHint k).comp hwoke) ?_
    refine PortFree.ite (fun _ _ => Iff.rfl) ((portFree_takeSayAgain k).comp hwoke) ?_
    exact PortFree.ite (fun _ _ => Iff.rfl) ((portFree_takeEnter k).comp hwoke) hwoke

theorem portFree_takeKeysUpTo (n : Nat) (k : Seat) : PortFree (takeKeysUpTo n k) := by
  induction n with
  | zero => exact portFree_id
  | succ n ih =>
    intro p s
    have hqueue : (ported p s).keyQueue k = s.keyQueue k := rfl
    have hstate : ((ported p s).seat k).state = (s.seat k).state := rfl
    have hset : ∀ q, (ported p s).setKeyQueue k q = ported p (s.setKeyQueue k q) := fun _ => rfl
    rw [takeKeysUpTo, takeKeysUpTo, hqueue, hstate]
    simp only [hset, portFree_takeKey k _ p _, ih p _]
    split <;> rfl

theorem portFree_takeKeys (k : Seat) : PortFree (takeKeys k) := fun p s => portFree_takeKeysUpTo _ k p s

theorem portFree_resume (k : Seat) : PortFree (resume k) := fun p s => by
  have hstate : ((ported p s).seat k).state = (s.seat k).state := rfl
  unfold resume
  rw [hstate]
  cases (s.seat k).state with
  | paused reason point =>
    exact ((portFree_takeKeys k).comp (portFree_leaveReviewIfDone k)).comp (portFree_retryIfDone k) p
      (writeImageKeepingVerdict k (s.mapSeat k fun c => { c with state := resumedState point, nudges := 0 }))
  | off => rfl
  | idle => rfl
  | present => rfl
  | entry => rfl
  | review _ => rfl

end Sys2Proof.Proofs.Ported
end

section
/-! PROOFS. PAUSE SEAT and RESUME SEAT (R68, R69, R70). -/
namespace Sys2Proof.Proofs.Resume
open Sys2Proof Sys2Proof.Machine Sys2Proof.Safety Sys2Proof.Proofs.Refusals Sys2Proof.Proofs.Requests
open Sys2Proof.Proofs.Say Sys2Proof.Proofs.Seats Sys2Proof.Proofs.Reports Sys2Proof.Proofs.Drill
open Sys2Proof.Proofs.Completion Sys2Proof.Proofs.Keys Sys2Proof.Proofs.TakenKeys Sys2Proof.Proofs.Timers
open Sys2Proof.Proofs.Ported

/-! ## The frames -/

theorem settle_ported (p : LessonPort) (s : State) : settle (ported p s) = ported p (settle s) := rfl

section Frame
variable {k : Seat} {s : State} (h : PortIdle s)
include h

theorem exec_resumeSeat {reason : PauseReason} {point : ResumePoint} (hstate : (s.seat k).state = .paused reason point) :
    exec (.resumeSeat .frameEnd (seatCode k)) s = .next { settle (resume k s) with port := framePort s .ok [] } := by
  have hcarry : carryResumeSeat (seatCode k) (carriedFrom s []) = (.ok, settle (resume k (carriedFrom s []))) := by
    rw [carryResumeSeat, carryContent_seat, show (carriedFrom s []).seat k = s.seat k from rfl, hstate]
  have hport : resume k (carriedFrom s []) = ported (carriedFrom s []).port (resume k s) := portFree_resume k _ s
  rw [hport, settle_ported] at hcarry
  exact exec_carried h rfl (checkContent_some (readSeatByte_code k) _) hcarry rfl

theorem exec_resumeSeat_refused (hstate : ∀ r point, (s.seat k).state ≠ .paused r point) :
    exec (.resumeSeat .frameEnd (seatCode k)) s = .next { s with port := framePort s .state [] } := by
  have hcarry : carryResumeSeat (seatCode k) (carriedFrom s []) = (.state, carriedFrom s []) := by
    rw [carryResumeSeat, carryContent_seat, show (carriedFrom s []).seat k = s.seat k from rfl]
    split
    case h_1 r point hpaused => exact absurd hpaused (hstate r point)
    all_goals rfl
  exact exec_carried h rfl (checkContent_some (readSeatByte_code k) _) hcarry rfl

theorem exec_pauseSeat (hoff : (s.seat k).state ≠ .off) (hidle : (s.seat k).state ≠ .idle) :
    exec (.pauseSeat .frameEnd (seatCode k)) s =
      .next { settle (pauseForLesson k (carriedFrom s [])) with port := framePort s .ok [] } := by
  have hcarry : carryPauseSeat (seatCode k) (carriedFrom s []) = (.ok, settle (pauseForLesson k (carriedFrom s []))) := by
    rw [carryPauseSeat, carryContent_seat, show (carriedFrom s []).seat k = s.seat k from rfl]
    split
    case h_5 h => exact absurd h hoff
    case h_6 h => exact absurd h hidle
    all_goals rfl
  have hport : (settle (pauseForLesson k (carriedFrom s []))).port = (carriedFrom s []).port := by simp
  refine exec_carried (reply := []) h rfl (checkContent_some (readSeatByte_code k) _) hcarry ?_
  rw [recordOutcome, hport]
  rfl

theorem exec_pauseSeat_refused (hstate : (s.seat k).state = .off ∨ (s.seat k).state = .idle) :
    exec (.pauseSeat .frameEnd (seatCode k)) s = .next { s with port := framePort s .state [] } := by
  have hcarry : carryPauseSeat (seatCode k) (carriedFrom s []) = (.state, carriedFrom s []) := by
    rw [carryPauseSeat, carryContent_seat, show (carriedFrom s []).seat k = s.seat k from rfl]
    rcases hstate with h | h <;> rw [h]
  exact exec_carried h rfl (checkContent_some (readSeatByte_code k) _) hcarry rfl

end Frame

/-! ## One seat changed -/

/-- An event that leaves one seat changed, in a state without a timer. -/
theorem settle_of_resting {k : Seat} {c : SeatContext} {s x : State} (hl : LinesFollow s)
    (hseats : x.seats = s.seats.set k c) (hlanes : x.lanes = s.lanes) (hidle : c.idleTimer = none) (hp : c.state ≠ .present)
    (he : c.state ≠ .entry) : settle x = { x with pins := pinLevels x } := by
  have hseat := seat_of_seats hseats
  have hsettle := settle_one (k := k) (x := x) hl hseats (by rw [State.lane, hlanes]; rfl) (by rw [State.lane, hlanes]; rfl)
  rwa [idleTimerAfter_of_state (by rw [hseat]; exact hp) (by rw [hseat]; exact he), ← hidle, ← hseats] at hsettle

/-- Seat k with another context and another key queue, and other images. -/
def seated (k : Seat) (c : SeatContext) (keys : List KeyEntry) (live : Pair Image) (s : State) : State :=
  { s with
    seats := s.seats.set k c, keyQueues := s.keyQueues.set k keys, mirror := { s.mirror with live := live } }

theorem seat_seated (k : Seat) (c : SeatContext) (keys : List KeyEntry) (live : Pair Image) (s : State) :
    (seated k c keys live s).seat k = c := Pair.get_set_self ..

theorem keyQueue_seated (k : Seat) (c : SeatContext) (keys : List KeyEntry) (live : Pair Image) (s : State) :
    (seated k c keys live s).keyQueue k = keys := Pair.get_set_self ..

/-- The timer of a seat at the end of an event that gives it none (R64). -/
def idleAtEnd (k : Seat) (c : SeatContext) (s : State) : Option Nat :=
  if ∀ e ∈ s.lane (.prompt k) ++ s.lane (.echo k), e.seat ≠ some k then startedIdle c else none

theorem idleTimerAfter_atEnd {k : Seat} {x : State} (hidle : (x.seat k).idleTimer = none)
    (hstate : (x.seat k).state = .present ∨ (x.seat k).state = .entry) :
    idleTimerAfter k x = idleAtEnd k (x.seat k) x := by
  unfold idleAtEnd
  split
  case isTrue hlanes => exact idleTimerAfter_started hstate hlanes hidle
  case isFalse hlanes =>
    rw [Classical.not_forall] at hlanes
    obtain ⟨e, he⟩ := hlanes
    rw [Classical.not_imp, Classical.not_not] at he
    exact idleTimerAfter_of_entry he.1 he.2

section Seated
variable {k : Seat} {c : SeatContext} {keys : List KeyEntry} {live : Pair Image} {s : State}

theorem idleTimerAfter_seated (hidle : c.idleTimer = none) (hstate : c.state = .present ∨ c.state = .entry) :
    idleTimerAfter k (seated k c keys live s) = idleAtEnd k c s := by
  have hseat := seat_seated k c keys live s
  have hafter := idleTimerAfter_atEnd (k := k) (x := seated k c keys live s) (by rw [hseat, hidle]) (by rw [hseat]; exact hstate)
  rw [hseat] at hafter
  exact hafter

/-- The end of an event that gives the seat no timer, in PRESENT or ENTRY. -/
theorem settle_seated (hl : LinesFollow s) (hidle : c.idleTimer = none) (hstate : c.state = .present ∨ c.state = .entry) :
    settle (seated k c keys live s) =
      { seated k { c with idleTimer := idleAtEnd k c s } keys live s with pins := pinLevels (seated k c keys live s) } := by
  rw [settle_one (k := k) (x := seated k c keys live s) hl rfl rfl rfl, idleTimerAfter_seated hidle hstate]
  rfl

/-- One letter that waits is taken, with barge-in and echo off in WHOLE mode. -/
theorem takeKeys_seated_letter {letter : Byte} {stamp : Word16} {overrun : Bool}
    (hstate : c.state = .present ∨ c.state = .entry) (hlow : 1 ≤ letter.toNat) (hhigh : letter.toNat ≤ 27)
    (hroom : c.line.length < 20) (hbarge : c.settings.bargeIn = false) (hecho : c.settings.echo = false)
    (hcheck : c.settings.check = .whole) (hidle : c.idleTimer = none) (hnudges : c.nudges = 0) :
    takeKeys k (seated k c [{ code := letter, kind := .press, stamp := stamp, overrun := overrun }] live s) =
      seated k
        { c with state := .entry, line := c.line ++ [{ letter := letter, origin := .typed, mark := .unchecked }] } []
        (liveWith k .entry ((seated k c [] live s).target k).length (live.get k).verdict c.tries
          (c.line ++ [{ letter := letter, origin := .typed, mark := .unchecked }]) (seated k c [] live s)) s := by
  have hseat := seat_seated k c [] live s
  have hset : (seated k c [{ code := letter, kind := .press, stamp := stamp, overrun := overrun }] live s).setKeyQueue k []
      = seated k c [] live s := by
    simp only [seated, State.setKeyQueue, Pair.set_set]
  have hwoken : woken c = c := by cases c; cases hidle; cases hnudges; rfl
  rw [takeKeys_of_one (keyQueue_seated ..) (by rw [seat_seated]; exact hstate), hset,
    takeKey_letter_room (s := seated k c [] live s) (mark := .unchecked) (by nofun) hlow hhigh (by rw [hseat, hbarge])
      (by rw [hseat]; exact hroom) (by rw [hseat, hcheck]; rfl),
    letterSpoken_right (mark := .unchecked) (by nofun), hseat, hecho, if_neg Bool.false_ne_true, hwoken]
  simp only [lineShown, seated, Pair.set_set]

end Seated

theorem verdict_liveWith (k : Seat) (x : ShownState) (length : Nat) (v : Verdict) (tries : Byte) (line : List Symbol)
    (s : State) : ((liveWith k x length v tries line s).get k).verdict = v := by
  rw [liveWith, Pair.get_set_self]
  split
  case isTrue hold => exact congrArg Image.verdict hold.symm
  case isFalse => rfl

/-- Seat k with another context, and other images. -/
theorem seated_keys (k : Seat) (c : SeatContext) (live : Pair Image) (s : State) :
    seated k c (s.keyQueue k) live s =
      { s with seats := s.seats.set k c, mirror := { s.mirror with live := live } } := by
  rw [seated, State.keyQueue, Pair.set_get]

theorem seatShown_eq_seated (k : Seat) (c : SeatContext) (length : Nat) (v : Verdict) (s : State) :
    seatShown k c length v s =
      seated k c (s.keyQueue k) (liveWith k (shownState c.state) length v c.tries c.line s) s := by
  rw [seated_keys]
  rfl

/-- Another image write for a seat that has changed. -/
theorem seatShown_seated (k : Seat) (c c' : SeatContext) (keys : List KeyEntry) (live : Pair Image) (length : Nat)
    (v : Verdict) (s : State) :
    seatShown k c' length v (seated k c keys live s) =
      seated k c' keys (liveWith k (shownState c'.state) length v c'.tries c'.line (seated k c keys live s)) s := by
  simp only [seatShown, seated, Pair.set_set]

/-! ## A word presented at the end of an event -/

/-- A word with a prompt has been presented, and no key waits: its prompt stops the timer (R46, R64). -/
theorem settle_present {k : Seat} {w : WordIndex} {h : Handle} {c : SeatContext} {s t : State} (hl : LinesFollow s)
    (hseats : t.seats = s.seats.set k c) (hprompts : t.lane (.prompt (otherSeat k)) = s.lane (.prompt (otherSeat k)))
    (hechoes : t.lane (.echo (otherSeat k)) = s.lane (.echo (otherSeat k))) (hprompt : (t.word w).prompt = some h)
    (hkept : (t.handle h).state = .kept) (hroom : (t.lane (.prompt k)).length < 4)
    (hkeys : c.settings.flush = true ∨ t.keyQueue k = []) :
    ∃ pins, settle (takeKeys k (present k w t)) = { wordPresented k w h t with pins := pins } := by
  have hseat : t.seat k = c := seat_of_seats hseats
  have hflushed : (flushedKeys k t).get k = [] := by
    unfold flushedKeys
    rw [hseat]
    split
    case isTrue => exact Pair.get_set_self ..
    case isFalse hno => exact hkeys.resolve_left hno
  let x : State := { wordPresented k w h t with
    seats := t.seats.set k (freshSeat w .present (some t.nextEntryId) (t.seat k).idleTimer (t.seat k)) }
  have hlane : ∀ i, x.lane i = if i = .prompt k then t.lane (.prompt k) ++ [freshEntry t (.phrase h) .drillPrompt (some k) none 0]
      else t.lane i := fun i => lane_phraseQueued k h .drillPrompt t i
  have hmem : freshEntry t (.phrase h) .drillPrompt (some k) none 0 ∈ x.lane (.prompt k) ++ x.lane (.echo k) := by
    rw [hlane, if_pos rfl]
    exact List.mem_append_left _ (List.mem_append_right _ List.mem_cons_self)
  have hset : x.seats = s.seats.set k (freshSeat w .present (some t.nextEntryId) (t.seat k).idleTimer (t.seat k)) := by
    change t.seats.set k _ = _
    rw [hseats, Pair.set_set]
  have hsettle := settle_one (x := x) hl hset (by rw [hlane, if_neg (by simp), hprompts])
    (by rw [hlane, if_neg (by simp), hechoes])
  rw [idleTimerAfter_of_entry hmem rfl] at hsettle
  rw [present_eq_of_prompt hprompt hkept hroom, takeKeys_of_empty (s := x) hflushed, hsettle]
  refine ⟨pinLevels x, ?_⟩
  simp only [wordPresented, hseats, Pair.set_set]
  rfl

/-! ## Resuming -/

section Resume
variable {k : Seat} {s : State}

/-- The seat at its resume point, before the consequences of what waited (R69). -/
def resumedAt (k : Seat) (point : ResumePoint) (s : State) : State :=
  seated k { s.seat k with state := resumedState point, nudges := 0 } (s.keyQueue k)
    (liveWith k (shownState (resumedState point)) (s.target k).length (s.mirror.live.get k).verdict (s.seat k).tries
      (s.seat k).line s) s

theorem seat_resumedAt (k : Seat) (point : ResumePoint) (s : State) :
    (resumedAt k point s).seat k = { s.seat k with state := resumedState point, nudges := 0 } := seat_seated ..

theorem resume_eq {reason : PauseReason} {point : ResumePoint} (hstate : (s.seat k).state = .paused reason point) :
    resume k s = takeKeys k (leaveReviewIfDone k (retryIfDone k (resumedAt k point s))) := by
  have hshown := writeKeeping_mapSeat (k := k) (s := s)
    (f := fun c => { c with state := resumedState point, nudges := 0 }) rfl
  rw [seatShown_eq_seated] at hshown
  unfold resume
  rw [hstate]
  simp only [hshown]
  rfl

/-- A resume point at which nothing has waited. -/
theorem resume_stays {reason : PauseReason} {point : ResumePoint} (hstate : (s.seat k).state = .paused reason point)
    (hretry : resumedState point = .review .retry → (s.seat k).reviewFeedback ≠ none)
    (hfinal : resumedState point = .review .final →
      (s.seat k).reviewFeedback ≠ none ∨ (s.seat k).pendingResult ≠ none) :
    resume k s = takeKeys k (resumedAt k point s) := by
  have hseat := seat_resumedAt k point s
  have hstays : retryIfDone k (resumedAt k point s) = resumedAt k point s := by
    refine if_neg fun ⟨hr, hf⟩ => ?_
    rw [hseat] at hr hf
    exact hretry hr hf
  have hleaves : leaveReviewIfDone k (resumedAt k point s) = resumedAt k point s := by
    by_cases hr : resumedState point = .review .final
    · exact leaveReviewIfDone_of_not (.inr (by rw [hseat]; exact hfinal hr))
    · exact leaveReviewIfDone_of_not (.inl (by rw [hseat]; exact hr))
  rw [resume_eq hstate, hstays, hleaves]

end Resume

/-! ## What a resume ends as -/

/-- An event has left y, but for the lines. -/
def EndsAs (x y : State) : Prop := ∃ pins, x = { y with pins := pins }

theorem EndsAs.next {i : Instr} {s x y : State} {port : LessonPort} (hends : EndsAs x y)
    (hexec : exec i s = .next { x with port := port }) :
    ∃ t, exec i s = .next t ∧ t = { y with port := port, pins := t.pins } := by
  obtain ⟨pins, rfl⟩ := hends
  exact ⟨_, hexec, rfl⟩

section Ends
variable {k : Seat} {c : SeatContext} {live : Pair Image} {s : State} (hl : LinesFollow s) (hidle : c.idleTimer = none)
include hl hidle

theorem endsAs_empty (hstate : c.state = .present ∨ c.state = .entry) :
    EndsAs (settle (takeKeys k (seated k c [] live s))) (seated k { c with idleTimer := idleAtEnd k c s } [] live s) := by
  rw [takeKeys_of_empty (keyQueue_seated ..), settle_seated hl hidle hstate]
  exact ⟨_, rfl⟩

theorem endsAs_letter {letter : Byte} {stamp : Word16} {overrun : Bool} (hstate : c.state = .present ∨ c.state = .entry)
    (hlow : 1 ≤ letter.toNat) (hhigh : letter.toNat ≤ 27) (hroom : c.line.length < 20) (hbarge : c.settings.bargeIn = false)
    (hecho : c.settings.echo = false) (hcheck : c.settings.check = .whole) (hnudges : c.nudges = 0)
    (hword : c.currentWord = (s.seat k).currentWord) {v : Verdict} (hverdict : (live.get k).verdict = v) :
    EndsAs
      (settle (takeKeys k (seated k c [{ code := letter, kind := .press, stamp := stamp, overrun := overrun }] live s)))
      (seated k
        { c with
          state := .entry, line := c.line ++ [{ letter := letter, origin := .typed, mark := .unchecked }],
          idleTimer := idleAtEnd k c s } []
        (liveWith k .entry (s.target k).length v c.tries
          (c.line ++ [{ letter := letter, origin := .typed, mark := .unchecked }])
          { s with mirror := { s.mirror with live := live } }) s) := by
  have htarget : (seated k c [] live s).target k = s.target k := target_congr rfl (by rw [seat_seated, hword])
  rw [takeKeys_seated_letter hstate hlow hhigh hroom hbarge hecho hcheck hidle hnudges, htarget, hverdict,
    settle_seated hl]
  · exact ⟨_, rfl⟩
  · exact hidle
  · exact .inr rfl

theorem endsAs_resting {keys : List KeyEntry} (hp : c.state ≠ .present) (he : c.state ≠ .entry) (hi : c.state ≠ .idle) :
    EndsAs (settle (takeKeys k (seated k c keys live s))) (seated k c keys live s) := by
  have hseat := seat_seated k c keys live s
  rw [takeKeys_of_resting (by rw [hseat]; exact hp) (by rw [hseat]; exact he) (by rw [hseat]; exact hi),
    settle_of_resting (x := seated k c keys live s) hl rfl rfl hidle hp he]
  exact ⟨_, rfl⟩

theorem endsAs_idle {keys : List KeyEntry} (hi : c.state = .idle) :
    EndsAs (settle (takeKeys k (seated k c keys live s))) (seated k c [] live s) := by
  have hdiscarded : takeKeys k (seated k c keys live s) = seated k c [] live s := by
    rw [takeKeys_of_idle (by rw [seat_seated]; exact hi)]
    simp only [seated, Pair.set_set]
  rw [hdiscarded, settle_of_resting (x := seated k c [] live s) hl rfl rfl hidle (by rw [hi]; nofun) (by rw [hi]; nofun)]
  exact ⟨_, rfl⟩

end Ends

/-! ## PAUSE SEAT -/

theorem pauseForLesson_word {k : Seat} {point : ResumePoint} {s : State} (hstate : (s.seat k).state = resumedState point) :
    pauseForLesson k s = pause k .lesson s := by
  unfold pauseForLesson
  rw [hstate]
  cases point <;> rfl

theorem pauseForLesson_paused {k : Seat} {reason : PauseReason} {point : ResumePoint} {s : State}
    (hstate : (s.seat k).state = .paused reason point) :
    pauseForLesson k s = { s with seats := s.seats.set k { s.seat k with state := .paused .lesson point } } := by
  unfold pauseForLesson
  rw [hstate]
  rfl

/-- The pause of a seat in a word, as its image shows it. -/
theorem pause_eq_seated {k : Seat} {reason : PauseReason} {point : ResumePoint} {s : State} (hshows : Shows k s)
    (hstate : (s.seat k).state = resumedState point) :
    pause k reason s =
      { s with
        seats := s.seats.set k { s.seat k with state := .paused reason point, idleTimer := none },
        mirror :=
          { s.mirror with
            live :=
              s.mirror.live.set k
                { s.mirror.live.get k with state := .paused, generation := (s.mirror.live.get k).generation + 1 } } } := by
  have hlive := liveWith_state hshows (state := .paused) (by rw [hstate]; exact shownState_resumedState_ne point)
  rw [pause_eq hstate, seatShown, ← hlive]
  rfl

end Sys2Proof.Proofs.Resume
end

section
/-! PROOFS. O30: a pause for the lesson and the resume from any pause (R68, R69, R70). -/
namespace Sys2Proof.Proofs.PauseAndResume
open Sys2Proof Sys2Proof.Machine Sys2Proof.Safety
open Sys2Proof.Proofs.Seats Sys2Proof.Proofs.Drill Sys2Proof.Proofs.Completion Sys2Proof.Proofs.Timers
open Sys2Proof.Proofs.Resume Sys2Proof.Proofs.Requests

/-! ## Pausing -/

/-- The lines read of a seat whether it is paused and whether it holds a result. -/
theorem pinLevels_of_seats {s : State} {p : Pair SeatContext}
    (h : ∀ j, (p.get j).isPaused = (s.seat j).isPaused ∧ (p.get j).pendingResult = (s.seat j).pendingResult) :
    pinLevels { s with seats := p } = pinLevels s := by
  obtain ⟨hpa, hra⟩ := h .a
  obtain ⟨hpb, hrb⟩ := h .b
  simp only [State.seat, Pair.get] at hpa hra hpb hrb
  have hpaused : ∀ j, (({ s with seats := p } : State).seat j).isPaused = (s.seat j).isPaused := fun j => (h j).1
  have hoffers : ∀ i, laneOffers i { s with seats := p } = laneOffers i s := fun i => by
    cases i with
    | system => rfl
    | prompt j => exact congrArg (fun x => queuedHead (s.lane (.prompt j)) && !x) (hpaused j)
    | echo j => exact congrArg (fun x => queuedHead (s.lane (.echo j)) && !x) (hpaused j)
  have hattn : attnLevel { s with seats := p } = attnLevel s := by
    simp only [attnLevel, causesDriving, causesPending, SeatContext.holding, hra, hrb]
  have hsrq : srqLevel { s with seats := p } = srqLevel s := by
    simp only [srqLevel, seatOffers, hoffers]
    rfl
  rw [pinLevels, hattn, hsrq]
  rfl

/-- A pause that changes its reason moves no line. -/
theorem settle_pausedAgain {k : Seat} {reason reason' : PauseReason} {point : ResumePoint} {s : State}
    (h : LinesFollow s) (hstate : (s.seat k).state = .paused reason point) :
    settle { s with seats := s.seats.set k { s.seat k with state := .paused reason' point } } =
      { s with seats := s.seats.set k { s.seat k with state := .paused reason' point } } := by
  have hidle := idleTimer_of_state h (k := k) (by rw [hstate]; nofun) (by rw [hstate]; nofun)
  have hlevels : pinLevels { s with seats := s.seats.set k { s.seat k with state := .paused reason' point } } = s.pins := by
    rw [((linesFollow_iff s).mp h).1]
    refine pinLevels_of_seats fun j => ?_
    rw [Pair.get_set]
    split
    case isTrue hj => rw [hj, SeatContext.isPaused, SeatContext.isPaused, hstate]; exact ⟨rfl, rfl⟩
    case isFalse => exact ⟨rfl, rfl⟩
  refine (settle_of_resting (k := k) (c := { s.seat k with state := .paused reason' point }) (s := s)
    (x := { s with seats := s.seats.set k { s.seat k with state := .paused reason' point } }) h rfl rfl hidle (by nofun)
    (by nofun)).trans ?_
  rw [hlevels]

/-- PAUSE SEAT by the state of the seat. -/
theorem pauseSeat_cases (k : Seat) (point : ResumePoint) {s : State} (h : PortIdle s) (hl : LinesFollow s)
    (hi : ImagesFollow s) :
    ((s.seat k).state = resumedState point →
        ∃ t, exec (.pauseSeat .frameEnd (seatCode k)) s = .next t
          ∧ t = { s with
              seats := s.seats.set k { s.seat k with state := .paused .lesson point, idleTimer := none },
              mirror :=
                { s.mirror with
                  live :=
                    s.mirror.live.set k
                      { s.mirror.live.get k with
                        state := .paused, generation := (s.mirror.live.get k).generation + 1 } },
              port := framePort s .ok [], pins := t.pins })
      ∧ (∀ reason, (s.seat k).state = .paused reason point →
        exec (.pauseSeat .frameEnd (seatCode k)) s = .next
          { s with
            seats := s.seats.set k { s.seat k with state := .paused .lesson point },
            port := framePort s .ok [] })
      ∧ ((s.seat k).state = .off ∨ (s.seat k).state = .idle →
        exec (.pauseSeat .frameEnd (seatCode k)) s = .next { s with port := framePort s .state [] }) := by
  have hl' : LinesFollow (carriedFrom s []) := linesFollow_carriedFrom [] hl
  refine ⟨fun hstate => ?_, fun reason hstate => ?_, exec_pauseSeat_refused h⟩
  · have hexec := exec_pauseSeat (k := k) h (by rw [hstate]; cases point <;> nofun) (by rw [hstate]; cases point <;> nofun)
    have hpause := pause_eq_seated (reason := .lesson) (s := carriedFrom s []) (hi k) hstate
    have hsettle := settle_of_resting (k := k) (x := pause k .lesson (carriedFrom s [])) hl' (by rw [hpause])
      (by rw [hpause]) rfl (by nofun) (by nofun)
    rw [pauseForLesson_word (s := carriedFrom s []) hstate, hsettle, hpause] at hexec
    exact ⟨_, hexec, rfl⟩
  · have hexec := exec_pauseSeat (k := k) h (by rw [hstate]; nofun) (by rw [hstate]; nofun)
    rw [pauseForLesson_paused (s := carriedFrom s []) hstate, settle_pausedAgain (s := carriedFrom s []) hl' hstate] at hexec
    exact hexec

/-! ## Resuming -/

section Resuming
variable {k : Seat} {reason : PauseReason} {s : State}

/-- A pause has no timer. -/
theorem idleTimer_of_paused (hl : LinesFollow s) {point : ResumePoint} (hstate : (s.seat k).state = .paused reason point) :
    (s.seat k).idleTimer = none := idleTimer_of_state hl (by rw [hstate]; nofun) (by rw [hstate]; nofun)

/-- REVIEW(RETRY) whose feedback is done: the retry is carried out (R60). -/
theorem resume_retry (hstate : (s.seat k).state = .paused reason (.review .retry))
    (hfeedback : (s.seat k).reviewFeedback = none) :
    resume k s = takeKeys k
      (seated k { s.seat k with state := .entry, line := [], tries := (s.seat k).tries + 1, nudges := 0 } (s.keyQueue k)
        (liveWith k .entry (s.target k).length (s.mirror.live.get k).verdict ((s.seat k).tries + 1) []
          (resumedAt k (.review .retry) s)) s) := by
  have hseat := seat_resumedAt k (.review .retry) s
  have htarget : (resumedAt k (.review .retry) s).target k = s.target k := target_congr rfl (by rw [hseat])
  have hverdict : ((resumedAt k (.review .retry) s).mirror.live.get k).verdict = (s.mirror.live.get k).verdict :=
    verdict_liveWith ..
  have hcontext : ({ (resumedAt k (.review .retry) s).seat k with
      state := .entry, line := [], tries := ((resumedAt k (.review .retry) s).seat k).tries + 1, reviewFeedback := none }
        : SeatContext)
      = { s.seat k with state := .entry, line := [], tries := (s.seat k).tries + 1, nudges := 0 } := by
    rw [hseat, ← hfeedback]
  have hretry : retryIfDone k (resumedAt k (.review .retry) s)
      = seated k { s.seat k with state := .entry, line := [], tries := (s.seat k).tries + 1, nudges := 0 } (s.keyQueue k)
        (liveWith k .entry (s.target k).length (s.mirror.live.get k).verdict ((s.seat k).tries + 1) []
          (resumedAt k (.review .retry) s)) s := by
    rw [retryIfDone_of_done (by rw [hseat]; rfl) (by rw [hseat]; exact hfeedback), carryOutRetry_eq, hcontext, htarget,
      hverdict]
    exact seatShown_seated ..
  rw [resume_eq hstate, hretry, leaveReviewIfDone_of_not (.inl (by rw [seat_seated]; nofun))]

/-- REVIEW(FINAL) with nothing pending and auto-next off: the seat goes to IDLE (R63). -/
theorem resume_idle (hstate : (s.seat k).state = .paused reason (.review .final))
    (hfeedback : (s.seat k).reviewFeedback = none) (hpending : (s.seat k).pendingResult = none)
    (hauto : (s.seat k).settings.autoNext = false) :
    resume k s = takeKeys k
      (seated k { s.seat k with state := .idle, currentWord := none, line := [], nudges := 0 } (s.keyQueue k)
        (liveWith k .idle 0 (s.mirror.live.get k).verdict (s.seat k).tries [] (resumedAt k (.review .final) s)) s) := by
  have hseat := seat_resumedAt k (.review .final) s
  have hverdict : ((resumedAt k (.review .final) s).mirror.live.get k).verdict = (s.mirror.live.get k).verdict :=
    verdict_liveWith ..
  rw [resume_eq hstate, retryIfDone_of_state (by rw [hseat]; nofun), leaveReviewIfDone_idle (by rw [hseat]; rfl)
    (by rw [hseat]; exact hfeedback) (by rw [hseat]; exact hpending) (by rw [hseat]; exact hauto), toIdle_eq, hverdict, hseat]
  exact congrArg (takeKeys k) (seatShown_seated ..)

/-- REVIEW(FINAL) with nothing pending and auto-next on: on to a picked word (R63). -/
theorem resume_next {w : WordIndex} (hstate : (s.seat k).state = .paused reason (.review .final))
    (hfeedback : (s.seat k).reviewFeedback = none) (hpending : (s.seat k).pendingResult = none)
    (hauto : (s.seat k).settings.autoNext = true) (hpick : pickWord k s = some w) :
    resume k s = takeKeys k (present k w (resumedAt k (.review .final) s)) := by
  have hseat := seat_resumedAt k (.review .final) s
  have hpick' : pickWord k (resumedAt k (.review .final) s) = some w :=
    (Pick.pickWord_of_deck_eq (s := s) (t := resumedAt k (.review .final) s) rfl (by rw [hseat])).trans hpick
  rw [resume_eq hstate, retryIfDone_of_state (by rw [hseat]; nofun), leaveReviewIfDone_next (by rw [hseat]; rfl)
    (by rw [hseat]; exact hfeedback) (by rw [hseat]; exact hpending) (by rw [hseat]; exact hauto), presentPick, hpick']

end Resuming

/-- An event that brings a seat to PRESENT or ENTRY ends with no key waiting, or takes the one letter that waits. -/
theorem takes_what_waits {k : Seat} {i : Instr} {c : SeatContext} {live : Pair Image} {port : LessonPort} {v : Verdict}
    {s : State} (hl : LinesFollow s)
    (hexec : exec i s = .next { settle (takeKeys k (seated k c (s.keyQueue k) live s)) with port := port })
    (hidle : c.idleTimer = none) (hstate : c.state = .present ∨ c.state = .entry) (hnudges : c.nudges = 0)
    (hword : c.currentWord = (s.seat k).currentWord) (hverdict : (live.get k).verdict = v) :
    (s.keyQueue k = [] →
        ∃ t, exec i s = .next t
          ∧ t = { seated k { c with idleTimer := idleAtEnd k c s } [] live s with port := port, pins := t.pins })
      ∧ (∀ (letter : Byte) (stamp : Word16) (overrun : Bool), 1 ≤ letter.toNat → letter.toNat ≤ 27 →
        c.line.length < 20 → c.settings.bargeIn = false → c.settings.echo = false → c.settings.check = .whole →
        s.keyQueue k = [{ code := letter, kind := .press, stamp := stamp, overrun := overrun }] →
        let line : List Symbol := c.line ++ [{ letter := letter, origin := .typed, mark := .unchecked }]
        ∃ t, exec i s = .next t
          ∧ t = { seated k { c with state := .entry, line := line, idleTimer := idleAtEnd k c s } []
              (liveWith k .entry (s.target k).length v c.tries line { s with mirror := { s.mirror with live := live } }) s with
            port := port, pins := t.pins }) := by
  refine ⟨fun hempty => ?_, fun letter stamp overrun hlow hhigh hroom hbarge hecho hcheck hkeys => ?_⟩
  · rw [hempty] at hexec
    exact (endsAs_empty hl hidle hstate).next hexec
  · rw [hkeys] at hexec
    exact (endsAs_letter hl hidle hstate hlow hhigh hroom hbarge hecho hcheck hnudges hword hverdict).next hexec

/-- A review that waits goes on waiting. -/
theorem endsAs_reviewing {k : Seat} {reason : PauseReason} {phase : ReviewPhase} {s : State} (hl : LinesFollow s)
    (hstate : (s.seat k).state = .paused reason (.review phase)) :
    EndsAs (settle (takeKeys k (resumedAt k (.review phase) s))) (resumedAt k (.review phase) s) := by
  refine endsAs_resting (c := { s.seat k with state := resumedState (.review phase), nudges := 0 }) hl
    (idleTimer_of_paused hl hstate) ?_ ?_ ?_
  · nofun
  · nofun
  · nofun

/-- A word presented over a resumed seat clears what the resume has written of it. -/
theorem wordPresented_resumedAt (k : Seat) (point : ResumePoint) (w : WordIndex) (h : Handle) (s : State) :
    wordPresented k w h (resumedAt k point s) =
      wordPresented k w h
        { s with
          mirror :=
            { s.mirror with
              live :=
                liveWith k (shownState (resumedState point)) (s.target k).length (s.mirror.live.get k).verdict
                  (s.seat k).tries (s.seat k).line s } } := by
  have hseat := seat_resumedAt k point s
  have hkeys : s.keyQueues.set k (s.keyQueue k) = s.keyQueues := Pair.set_get ..
  simp only [wordPresented, hseat, flushedKeys]
  simp only [resumedAt, seated, phraseQueued, Pair.set_set, hkeys]
  rfl

/-- Settles O30: the pause by the seat's state, the resume by its resume point and by what waited. -/
theorem pauseAndResumeKeepThePlace : Obligations.PauseAndResumeKeepThePlace := by
  unfold Obligations.PauseAndResumeKeepThePlace
  refine ⟨fun k point s h hl hi => pauseSeat_cases k point h hl hi, fun k reason s h hl hi => ?_⟩
  simp only
  refine ⟨fun hstate => ?_, fun hstate => ?_, fun hstate => ⟨fun hfeedback => ?_, fun hfeedback => ?_⟩,
    fun hstate => ⟨fun hwaits => ?_, fun hfeedback hpending => ⟨fun hauto => ?_, ?_⟩⟩, fun point hstate => ?_,
    fun hstate => exec_resumeSeat_refused h hstate⟩
  case refine_1 =>
    have hexec := exec_resumeSeat h hstate
    rw [resume_stays hstate nofun nofun] at hexec
    exact takes_what_waits hl hexec (idleTimer_of_paused hl hstate) (.inl rfl) rfl rfl (verdict_liveWith ..)
  case refine_2 =>
    have hexec := exec_resumeSeat h hstate
    rw [resume_stays hstate nofun nofun] at hexec
    exact takes_what_waits hl hexec (idleTimer_of_paused hl hstate) (.inr rfl) rfl rfl (verdict_liveWith ..)
  case refine_3 =>
    have hexec := exec_resumeSeat h hstate
    rw [resume_stays hstate (fun _ => hfeedback) nofun] at hexec
    exact (endsAs_reviewing hl hstate).next hexec
  case refine_4 =>
    have hexec := exec_resumeSeat h hstate
    rw [resume_retry hstate hfeedback] at hexec
    exact takes_what_waits hl hexec (idleTimer_of_paused hl hstate) (.inr rfl) rfl rfl (verdict_liveWith ..)
  case refine_5 =>
    have hexec := exec_resumeSeat h hstate
    rw [resume_stays hstate nofun (fun _ => hwaits)] at hexec
    exact (endsAs_reviewing hl hstate).next hexec
  case refine_6 =>
    have hexec := exec_resumeSeat h hstate
    rw [resume_idle hstate hfeedback hpending hauto] at hexec
    exact (endsAs_idle (c := { s.seat k with state := .idle, currentWord := none, line := [], nudges := 0 }) hl
      (idleTimer_of_paused hl hstate) rfl).next hexec
  case refine_7 =>
    intro w g hauto hpick hprompt hkept hroom hkeys
    have hexec := exec_resumeSeat h hstate
    rw [resume_next hstate hfeedback hpending hauto hpick] at hexec
    have hends : EndsAs _ _ := settle_present (t := resumedAt k (.review .final) s) hl rfl rfl rfl hprompt hkept hroom
      (hkeys.imp_right fun hempty => (keyQueue_seated ..).trans hempty)
    rw [wordPresented_resumedAt] at hends
    exact hends.next hexec
  case refine_8 => exact ⟨_, exec_resumeSeat h hstate, rfl⟩

end Sys2Proof.Proofs.PauseAndResume
end

section
/-! PROOFS. Several entries leave one lane, and nobody waits for them (R117). -/
namespace Sys2Proof.Proofs.Leaving
open Sys2Proof Sys2Proof.Machine Sys2Proof.Safety
open Sys2Proof.Proofs.Reports Sys2Proof.Proofs.Completion Sys2Proof.Proofs.BargeIn

/-! ## The records of tagged entries -/

/-- A tagged entry that leaves offers its SPEECH_DONE (R117). -/
def doneTold (o : SpeechOutcome) (t : State) (e : SpeechEntry) : State :=
  if e.tag = 0 then t else { t with reports := offered t (.speechDone e.tag o e.seat e.channel) }

theorem offered_congr {s t : State} (hclock : t.clock = s.clock) (hreports : t.reports = s.reports) (body : Report) :
    offered t body = offered s body := by
  simp only [offered, withRecord, withLoss, withFault, stamped, hreports, hclock]

theorem doneTold_clock (o : SpeechOutcome) (t : State) (e : SpeechEntry) : (doneTold o t e).clock = t.clock := by
  unfold doneTold
  split <;> rfl

theorem foldl_doneTold_congr (o : SpeechOutcome) (es : List SpeechEntry) {s t : State} (hclock : t.clock = s.clock)
    (hreports : t.reports = s.reports) : (es.foldl (doneTold o) t).reports = (es.foldl (doneTold o) s).reports := by
  induction es generalizing s t with
  | nil => exact hreports
  | cons e es ih =>
    refine ih (by rw [doneTold_clock, doneTold_clock, hclock]) ?_
    unfold doneTold
    split
    · exact hreports
    · exact offered_congr hclock hreports _

theorem foldl_doneTold_untagged {o : SpeechOutcome} {es : List SpeechEntry} (h : ∀ e ∈ es, e.tag = 0) (s : State) :
    es.foldl (doneTold o) s = s := by
  induction es with
  | nil => rfl
  | cons e es ih =>
    obtain ⟨he, hes⟩ := List.forall_mem_cons.mp h
    rw [List.foldl_cons, doneTold, if_pos he, ih hes]

theorem foldl_entryReleased_spelled {es : List SpeechEntry} (h : ∀ e ∈ es, ∀ g, e.content ≠ .phrase g) (s : State) :
    es.foldl entryReleased s = s := by
  induction es with
  | nil => rfl
  | cons e es ih =>
    obtain ⟨he, hes⟩ := List.forall_mem_cons.mp h
    have hsame : entryReleased s e = s := by
      unfold entryReleased
      split
      case h_1 g hg => exact absurd hg (he g)
      case h_2 => rfl
      case h_3 => rfl
    rw [List.foldl_cons, hsame, ih hes]

/-! ## Leaving -/

/-- Some entries have left a lane with an outcome, and no seat has been told. -/
def gone (i : LaneId) (o : SpeechOutcome) (es : List SpeechEntry) (s : State) : State :=
  { s with
    phrases := (es.foldl entryReleased s).phrases,
    lanes := s.lanes.set i (es.foldl erased (s.lane i)),
    reports := (es.foldl (doneTold o) s).reports }

theorem gone_nil (i : LaneId) (o : SpeechOutcome) (s : State) : gone i o [] s = s := by
  have hlanes : s.lanes.set i (s.lane i) = s.lanes := by
    cases i with
    | system => rfl
    | prompt k => cases k <;> rfl
    | echo k => cases k <;> rfl
  rw [gone]
  simp only [List.foldl_nil, hlanes]

theorem lanes_set_set (l : Lanes) (i : LaneId) (x y : List SpeechEntry) : (l.set i x).set i y = l.set i y := by
  cases i with
  | system => rfl
  | prompt k => cases k <;> rfl
  | echo k => cases k <;> rfl

theorem gone_cons (i : LaneId) (o : SpeechOutcome) (e : SpeechEntry) (es : List SpeechEntry) (s : State) :
    gone i o es (gone i o [e] s) = gone i o (e :: es) s := by
  have hphrases : (es.foldl entryReleased (gone i o [e] s)).phrases = ((e :: es).foldl entryReleased s).phrases :=
    foldl_entryReleased_congr es rfl
  have hreports : (es.foldl (doneTold o) (gone i o [e] s)).reports = ((e :: es).foldl (doneTold o) s).reports :=
    foldl_doneTold_congr o es (doneTold_clock o s e).symm rfl
  have hlane : (gone i o [e] s).lane i = erased (s.lane i) e := State.lane_setLane_self s i _
  rw [gone, hphrases, hreports, hlane]
  simp only [gone, lanes_set_set]
  rfl

theorem leaveLane_gone (i : LaneId) (o : SpeechOutcome) (e : SpeechEntry) (s : State) :
    leaveLane i o e s = gone i o [e] s := by
  have hremoved : removeEntry i e s = (entryReleased s e).setLane i (erased (s.lane i) e) := rfl
  have hdone : (doneTold o s e).reports
      = if e.tag = 0 then s.reports else offered s (.speechDone e.tag o e.seat e.channel) := by
    unfold doneTold
    split <;> rfl
  rw [leaveLane_eq, hremoved, entryReleased_eq, ← hdone]
  rfl

/-- The seat waits for no entry: neither a presentation prompt nor a review feedback. -/
def Untold (k : Seat) (s : State) : Prop := (s.seat k).presentationPrompt = none ∧ (s.seat k).reviewFeedback = none

theorem tellSeat_untold {k : Seat} {e : SpeechEntry} {s : State} (h : Untold k s) (hseat : e.seat = some k) :
    tellSeat e s = s := by
  simp only [tellSeat, hseat, h.1, h.2, reduceCtorEq, if_false]

/-- Entries of a seat that waits for none of them leave a lane. -/
theorem leaveEach_gone {k : Seat} {i : LaneId} {o : SpeechOutcome} {es : List SpeechEntry} {s : State} (h : Untold k s)
    (hes : ∀ e ∈ es, e.seat = some k) : leaveEach i o tellSeat es s = gone i o es s := by
  induction es generalizing s with
  | nil => rw [gone_nil]; rfl
  | cons e es ih =>
    obtain ⟨hseat, hrest⟩ := List.forall_mem_cons.mp hes
    have hstep : leaveEach i o tellSeat (e :: es) s
        = leaveEach i o tellSeat es (tellSeat e (leaveLane i o e s)) := rfl
    rw [hstep, leaveLane_gone, tellSeat_untold (s := gone i o [e] s) h hseat, ih (s := gone i o [e] s) h hrest, gone_cons]

/-- The lanes after entries with numbers of their own have left one of them. -/
theorem lane_gone {i : LaneId} (o : SpeechOutcome) (p : SpeechEntry → Bool) {s : State}
    (hids : ((s.lane i).map (·.id)).Nodup) (j : LaneId) :
    (gone i o ((s.lane i).filter p) s).lane j = if j = i then (s.lane i).filter (fun e => !p e) else s.lane j := by
  rw [State.lane, gone, foldl_erased_filter p hids]
  exact State.lane_setLane s i j _

/-- A whole lane of letters and cues without tags leaves. -/
theorem gone_all {i : LaneId} {o : SpeechOutcome} {s : State} (hids : ((s.lane i).map (·.id)).Nodup)
    (htags : ∀ e ∈ s.lane i, e.tag = 0) (hspelled : ∀ e ∈ s.lane i, ∀ g, e.content ≠ .phrase g) :
    gone i o (s.lane i) s = s.setLane i [] := by
  have hlane : (s.lane i).foldl erased (s.lane i) = [] := by
    have hall := foldl_erased_filter (l := s.lane i) (fun _ => true) hids
    rwa [List.filter_eq_self.mpr fun _ _ => rfl, List.filter_eq_nil_iff.mpr (by simp)] at hall
  rw [gone, hlane, foldl_doneTold_untagged htags, foldl_entryReleased_spelled hspelled]
  rfl

end Sys2Proof.Proofs.Leaving
end

section
/-! PROOFS. NEXT WORD (R46, R48, R49, R126). -/
namespace Sys2Proof.Proofs.Next
open Sys2Proof Sys2Proof.Machine Sys2Proof.Safety
open Sys2Proof.Proofs.Refusals Sys2Proof.Proofs.Requests Sys2Proof.Proofs.Say Sys2Proof.Proofs.Seats
open Sys2Proof.Proofs.Reports Sys2Proof.Proofs.Drill Sys2Proof.Proofs.Completion Sys2Proof.Proofs.Keys
open Sys2Proof.Proofs.BargeIn Sys2Proof.Proofs.TakenKeys Sys2Proof.Proofs.Timers Sys2Proof.Proofs.Resume
open Sys2Proof.Proofs.Leaving

/-! ## The request -/

theorem readNextRequest_word {k : Seat} {w : WordIndex} {s : State} (h : (s.word w).enabled = true) :
    readNextRequest (seatCode k) (byteOf w.val) s = some (k, some w) := by
  unfold readNextRequest
  rw [readSeatByte_code, readWordOrNone_code]
  exact if_pos h

theorem readNextRequest_pick (k : Seat) (s : State) : readNextRequest (seatCode k) 255 s = some (k, none) := by
  unfold readNextRequest
  rw [readSeatByte_code]
  rfl

/-- A request to go on reads in a word that is enabled, or 255 for a pick. -/
theorem readNextRequest_some {k : Seat} {x : Byte} {s : State}
    (h : x = 255 ∨ ∃ w : WordIndex, x = byteOf w.val ∧ (s.word w).enabled = true) :
    ∃ index, readNextRequest (seatCode k) x s = some (k, index) := by
  rcases h with rfl | ⟨w, rfl, henabled⟩
  · exact ⟨none, readNextRequest_pick k s⟩
  · exact ⟨some w, readNextRequest_word henabled⟩

section Frame
variable {k : Seat} {x : Byte} {index : Option WordIndex} {s : State} (h : PortIdle s)
variable (hread : readNextRequest (seatCode k) x s = some (k, index))
include h hread

theorem exec_nextWord (hstate : (s.seat k).state = .idle ∨ (s.seat k).state = .present ∨ (s.seat k).state = .entry) :
    exec (.nextWord .frameEnd (seatCode k) x) s =
      .next { settle (nextWord k index (carriedFrom s [])) with port := framePort s .ok [] } := by
  have hport : (settle (nextWord k index (carriedFrom s []))).port = (carriedFrom s []).port := by simp
  refine exec_read (reply := noReply) h hread rfl rfl rfl ?_
  have hact : (match (s.seat k).state with
      | .idle | .present | .entry => (LessonOutcome.ok, settle (nextWord k index (carriedFrom s [])))
      | .off | .review _ | .paused _ _ => (.state, carriedFrom s []))
      = (.ok, settle (nextWord k index (carriedFrom s []))) := by
    rcases hstate with h | h | h <;> rw [h]
  refine (congrArg (fun r : Carried => recordOutcome r.1 r.2) hact).trans ?_
  rw [recordOutcome, hport]
  rfl

theorem exec_nextWord_refused (hidle : (s.seat k).state ≠ .idle) (hpresent : (s.seat k).state ≠ .present)
    (hentry : (s.seat k).state ≠ .entry) :
    exec (.nextWord .frameEnd (seatCode k) x) s = .next { s with port := framePort s .state [] } := by
  refine exec_read (reply := noReply) h hread rfl rfl rfl ?_
  have hact : (match (s.seat k).state with
      | .idle | .present | .entry => (LessonOutcome.ok, settle (nextWord k index (carriedFrom s [])))
      | .off | .review _ | .paused _ _ => (.state, carriedFrom s [])) = (.state, carriedFrom s []) := by
    split
    case h_1 h => exact absurd h hidle
    case h_2 h => exact absurd h hpresent
    case h_3 h => exact absurd h hentry
    all_goals rfl
  exact congrArg (fun r : Carried => recordOutcome r.1 r.2) hact

end Frame

/-! ## Which word -/

theorem enabled_of_pickWord {k : Seat} {w : WordIndex} {s : State} (h : pickWord k s = some w) :
    (s.word w).enabled = true := by
  exact ((Candidates.mem_pickCandidates k w s).mp ((Pick.pickWord_eq_some_iff k s w).mp h).1).1

theorem nextWord_idle {k : Seat} (w : WordIndex) {s : State} (hstate : (s.seat k).state = .idle) :
    nextWord k (some w) s = takeKeys k (present k w s) := by
  unfold nextWord
  rw [hstate]

theorem nextWord_word {k : Seat} (w : WordIndex) {s : State} (hstate : (s.seat k).state = .present ∨ (s.seat k).state = .entry) :
    nextWord k (some w) s = takeKeys k (present k w (abandon k s)) := by
  unfold nextWord
  rcases hstate with h | h <;> rw [h]

theorem nextWord_word_pick {k : Seat} {s : State} (hstate : (s.seat k).state = .present ∨ (s.seat k).state = .entry) :
    nextWord k none s = takeKeys k (presentPick k (abandon k s)) := by
  unfold nextWord
  rcases hstate with h | h <;> rw [h]

/-! ## Abandoning a word (R49, R126) -/

/-- What an abandoned word leaves of its seat's context. -/
def abandonedSeat (c : SeatContext) : SeatContext := { c with presentationPrompt := none, nudges := 0, entryMs := 0 }

/-- The seat in a word keeps its context but for its feedback while entries of it leave that are no prompt it waits for. -/
theorem leaveEach_seat {k : Seat} {i : LaneId} {o : SpeechOutcome} {es : List SpeechEntry} {s : State}
    (hprompt : (s.seat k).presentationPrompt = none) (hstate : (s.seat k).state = .present ∨ (s.seat k).state = .entry)
    (hes : ∀ e ∈ es, e.seat = some k) :
    ∃ feedback, (leaveEach i o tellSeat es s).seat k = { s.seat k with reviewFeedback := feedback } := by
  induction es generalizing s with
  | nil => exact ⟨(s.seat k).reviewFeedback, rfl⟩
  | cons e es ih =>
    obtain ⟨hseat, hrest⟩ := List.forall_mem_cons.mp hes
    have hleft : (leaveLane i o e s).seat k = s.seat k := by rw [leaveLane_gone]; rfl
    have htold : ∃ feedback, (tellSeat e (leaveLane i o e s)).seat k = { s.seat k with reviewFeedback := feedback } := by
      have hnot : ((leaveLane i o e s).seat k).presentationPrompt ≠ some e.id := by
        rw [hleft, hprompt]
        nofun
      simp only [tellSeat, hseat]
      rw [if_neg hnot]
      split
      case isTrue =>
        refine ⟨none, ?_⟩
        have hnone : ((leaveLane i o e s).mapSeat k fun c => { c with reviewFeedback := none }).seat k
            = { s.seat k with reviewFeedback := none } := by rw [State.seat_mapSeat_self, hleft]
        rw [feedbackDone, retryIfDone_of_state, leaveReviewIfDone_of_not (.inl ?_)]
        · exact hnone
        · rw [hnone]; rcases hstate with h | h <;> rw [h] <;> nofun
        · rw [hnone]; rcases hstate with h | h <;> rw [h] <;> nofun
      case isFalse => exact ⟨(s.seat k).reviewFeedback, hleft⟩
    obtain ⟨feedback, htold⟩ := htold
    obtain ⟨feedback', hfinal⟩ := ih (s := tellSeat e (leaveLane i o e s)) (by rw [htold, hprompt]) (by rw [htold]; exact hstate)
      hrest
    refine ⟨feedback', hfinal.trans ?_⟩
    rw [htold]

theorem seat_of_drillEntry {k : Seat} {i : LaneId} {s : State} :
    ∀ e ∈ queuedIn i (isDrillEntry k) s, e.seat = some k := fun e he => by
  have hdrill := (List.mem_filter.mp he).2
  simp only [isDrillEntry, Bool.and_eq_true, decide_eq_true_eq] at hdrill
  exact hdrill.2.1

/-- Abandoning keeps the previous word: the pick after it is the pick before it. -/
theorem pickWord_abandon {k : Seat} {s : State} (hstate : (s.seat k).state = .present ∨ (s.seat k).state = .entry) :
    pickWord k (abandon k s) = pickWord k s := by
  let t := s.mapSeat k fun c => { c with presentationPrompt := none, nudges := 0, entryMs := 0 }
  have ht : t.seat k = abandonedSeat (s.seat k) := State.seat_mapSeat_self ..
  obtain ⟨f, hu⟩ := leaveEach_seat (i := .prompt k) (o := .cut) (s := t) (by rw [ht]; rfl) (by rw [ht]; exact hstate)
    (seat_of_drillEntry (i := .prompt k) (s := t))
  generalize hut : leaveEach (.prompt k) .cut tellSeat (queuedIn (.prompt k) (isDrillEntry k) t) t = u at hu
  obtain ⟨g, hv⟩ := leaveEach_seat (i := .echo k) (o := .cut) (s := u) (by rw [hu, ht]; rfl) (by rw [hu, ht]; exact hstate)
    (seat_of_drillEntry (i := .echo k) (s := u))
  have hseat : (abandon k s).seat k
      = (leaveEach (.echo k) .cut tellSeat (queuedIn (.echo k) (isDrillEntry k) u) u).seat k := by
    rw [← hut]
    simp only [abandon, State.seat]
    simp
    rfl
  exact Pick.pickWord_of_deck_eq (by simp) (by rw [hseat, hv, hu, ht]; rfl)

/-- Abandoning when the seat waits for no feedback: its queued drill entries leave both lanes, one after another. -/
theorem abandon_eq {k : Seat} {s : State} (hfeedback : (s.seat k).reviewFeedback = none) :
    abandon k s =
      markCutPending (isDrillEntry k)
        (gone (.echo k) .cut (queuedIn (.echo k) (isDrillEntry k) s)
          (gone (.prompt k) .cut (queuedIn (.prompt k) (isDrillEntry k) s)
            (reseated k (abandonedSeat (s.seat k)) s))) := by
  have huntold : Untold k (reseated k (abandonedSeat (s.seat k)) s) := by
    rw [Untold, seat_reseated]
    exact ⟨rfl, hfeedback⟩
  have hprompts : queuedIn (.prompt k) (isDrillEntry k) (reseated k (abandonedSeat (s.seat k)) s)
      = queuedIn (.prompt k) (isDrillEntry k) s := rfl
  have hechoes : ∀ es, queuedIn (.echo k) (isDrillEntry k) (gone (.prompt k) .cut es (reseated k (abandonedSeat (s.seat k)) s))
      = queuedIn (.echo k) (isDrillEntry k) s := fun es => by
    rw [queuedIn, queuedIn, State.lane, gone]
    exact congrArg _ (State.lane_setLane s (.prompt k) (.echo k) _)
  have hunfold : abandon k s = markCutPending (isDrillEntry k)
      (leaveEach (.echo k) .cut tellSeat (queuedIn (.echo k) (isDrillEntry k)
          (leaveEach (.prompt k) .cut tellSeat (queuedIn (.prompt k) (isDrillEntry k) (reseated k (abandonedSeat (s.seat k)) s))
            (reseated k (abandonedSeat (s.seat k)) s)))
        (leaveEach (.prompt k) .cut tellSeat (queuedIn (.prompt k) (isDrillEntry k) (reseated k (abandonedSeat (s.seat k)) s))
          (reseated k (abandonedSeat (s.seat k)) s))) := rfl
  rw [hunfold, leaveEach_gone huntold seat_of_drillEntry, hprompts, hechoes]
  exact congrArg _ (leaveEach_gone (k := k) (s := gone ..) huntold seat_of_drillEntry)

/-- The seat's echo lane is empty, and its prompt lane holds some entries. -/
def speechLeft (k : Seat) (prompts : List SpeechEntry) (s : State) : State :=
  { s with lanes := { s.lanes with prompt := s.lanes.prompt.set k prompts, echo := s.lanes.echo.set k [] } }

theorem queuedIn_nil {i : LaneId} {which : SpeechEntry → Bool} {s : State}
    (h : ∀ e ∈ s.lane i, ¬ (e.state = .queued ∧ which e = true)) : queuedIn i which s = [] :=
  List.filter_eq_nil_iff.mpr fun e he hq => by
    rw [Bool.and_eq_true, decide_eq_true_eq] at hq
    exact h e he hq

theorem queuedIn_all {i : LaneId} {which : SpeechEntry → Bool} {s : State}
    (h : ∀ e ∈ s.lane i, e.state = .queued ∧ which e = true) : queuedIn i which s = s.lane i :=
  List.filter_eq_self.mpr fun e he => by
    rw [Bool.and_eq_true, decide_eq_true_eq]
    exact h e he

theorem isDrillEntry_iff (k : Seat) (e : SpeechEntry) :
    isDrillEntry k e = true ↔ e.seat = some k ∧ e.origin ≠ .lessonSay := by
  simp only [isDrillEntry, Bool.and_eq_true, decide_eq_true_eq]

/-- Nothing of a seat's drill is in flight while the system lane speaks. -/
theorem markCutPending_system {k : Seat} {s : State} (haccounted : ∀ e ∈ s.lane .system, e.seat = none)
    (hflight : ∀ u, s.link.inFlight = some u → u.lane = .system) : markCutPending (isDrillEntry k) s = s := by
  refine markCutPending_of_not fun e he => ?_
  unfold inFlightEntry at he
  cases hu : s.link.inFlight with
  | none => rw [hu] at he; cases he
  | some u =>
    simp only [hu, hflight u hu] at he
    have hnot : isDrillEntry k e = false := Bool.eq_false_iff.mpr fun hd => by
      have hseat := ((isDrillEntry_iff k e).mp hd).1
      rw [haccounted e (List.mem_of_mem_head? he)] at hseat
      cases hseat
    rw [hnot, Bool.and_false]

section Abandon
variable {k : Seat} {g : Handle} {e : SpeechEntry} {spoken : List SpeechEntry} {s : State} (haccounted : SpeechAccounted s)
variable (hfeedback : (s.seat k).reviewFeedback = none) (hlane : s.lane (.prompt k) = e :: spoken)
variable (hspoken : ∀ x ∈ spoken, x.origin = .lessonSay)
variable (hechoes : ∀ x ∈ s.lane (.echo k), x.state = .queued ∧ x.seat = some k ∧ x.origin = .drillEcho ∧ x.tag = 0)
include haccounted hechoes

/-- The echoes of an abandoned word leave as CUT. -/
theorem gone_echoes {y : State} (hy : y.lane (.echo k) = s.lane (.echo k)) :
    gone (.echo k) .cut (queuedIn (.echo k) (isDrillEntry k) s) y = y.setLane (.echo k) [] := by
  have hall : queuedIn (.echo k) (isDrillEntry k) s = y.lane (.echo k) := by
    rw [hy]
    refine queuedIn_all fun x hx => ?_
    obtain ⟨hqueued, hseat, horigin, _⟩ := hechoes x hx
    exact ⟨hqueued, (isDrillEntry_iff k x).mpr ⟨hseat, by rw [horigin]; nofun⟩⟩
  rw [hall]
  refine gone_all ?_ ?_ ?_
  · rw [hy]; exact haccounted.distinct _
  · rw [hy]; exact fun x hx => (hechoes x hx).2.2.2
  · rw [hy]; exact fun x hx => haccounted.echoes k x hx

include hfeedback hlane hspoken

/-- The word's phrase that waits leaves with its reference. -/
theorem abandon_queued (hqueued : e.state = .queued) (horigin : e.origin ≠ .lessonSay) (hseat : e.seat = some k)
    (htag : e.tag = 0) (hcontent : e.content = .phrase g) (hkept : (s.handle g).state = .kept)
    (hflight : ∀ u, s.link.inFlight = some u → u.lane = .system) :
    abandon k s = reseated k (abandonedSeat (s.seat k)) (speechLeft k spoken (referenceGivenUp g s)) := by
  have hout : queuedIn (.prompt k) (isDrillEntry k) s = [e] := by
    have hsays : (spoken.filter fun x => decide (x.state = .queued) && isDrillEntry k x) = [] :=
      List.filter_eq_nil_iff.mpr fun x hx hq => by
        rw [Bool.and_eq_true, isDrillEntry_iff] at hq
        exact hq.2.2 (hspoken x hx)
    rw [queuedIn, hlane, List.filter_cons_of_pos, hsays]
    rw [Bool.and_eq_true, isDrillEntry_iff, decide_eq_true_eq]
    exact ⟨hqueued, hseat, horigin⟩
  have hleft : gone (.prompt k) .cut [e] (reseated k (abandonedSeat (s.seat k)) s)
      = (referenceGivenUp g (reseated k (abandonedSeat (s.seat k)) s)).setLane (.prompt k) spoken := by
    rw [← leaveLane_gone, leaveLane_untagged htag,
      removeEntry_head (s := reseated k (abandonedSeat (s.seat k)) s) hlane, hcontent]
    simp only
    rw [releaseReference_eq (s := reseated k (abandonedSeat (s.seat k)) s) (.inl (by
      rw [show (reseated k (abandonedSeat (s.seat k)) s).handle g = s.handle g from rfl, hkept]
      nofun))]
    rfl
  rw [abandon_eq hfeedback, hout, hleft,
    gone_echoes haccounted hechoes (State.lane_setLane (referenceGivenUp g (reseated k (abandonedSeat (s.seat k)) s)) ..)]
  exact markCutPending_system haccounted.unseated hflight

/-- The word's phrase that streams is marked, and stays. -/
theorem abandon_streaming {u : Utterance} (hstreaming : e.state = .streaming) (horigin : e.origin ≠ .lessonSay)
    (hseat : e.seat = some k) (hu : s.link.inFlight = some u) (hprompt : u.lane = .prompt k) :
    abandon k s =
      reseated k (abandonedSeat (s.seat k)) (speechLeft k ({ e with cutPending := true } :: spoken) s) := by
  have hout : queuedIn (.prompt k) (isDrillEntry k) s = [] := by
    refine queuedIn_nil fun x hx ⟨hq, hd⟩ => ?_
    rw [hlane] at hx
    rcases List.mem_cons.mp hx with rfl | hx
    · rw [hstreaming] at hq
      cases hq
    · exact ((isDrillEntry_iff k x).mp hd).2 (hspoken x hx)
  have hhead : (((reseated k (abandonedSeat (s.seat k)) s).setLane (.echo k) []).lane (.prompt k)) = e :: spoken :=
    (State.lane_setLane (reseated k (abandonedSeat (s.seat k)) s) (.echo k) (.prompt k) []).trans hlane
  rw [abandon_eq hfeedback, hout, gone_nil,
    gone_echoes haccounted hechoes (y := reseated k (abandonedSeat (s.seat k)) s) rfl,
    markCutPending_of (s := (reseated k (abandonedSeat (s.seat k)) s).setLane (.echo k) []) (u := u) (e := e) hu (by rw [hprompt, hhead]; rfl) hstreaming
      ((isDrillEntry_iff k e).mpr ⟨hseat, horigin⟩), hprompt, hhead]
  rfl

end Abandon

/-- With nothing of the seat waiting, abandoning clears its context alone. -/
theorem abandon_silent {k : Seat} {s : State} (haccounted : SpeechAccounted s) (hprompts : s.lane (.prompt k) = [])
    (hechoes : s.lane (.echo k) = []) (hflight : ∀ u, s.link.inFlight = some u → u.lane = .system) :
    abandon k s = reseated k (abandonedSeat (s.seat k)) s := by
  have hout : ∀ i, s.lane i = [] → queuedIn i (isDrillEntry k) (reseated k (abandonedSeat (s.seat k)) s) = [] :=
    fun i hi => queuedIn_nil fun e he => absurd (hi ▸ he : e ∈ []) List.not_mem_nil
  have hunfold : abandon k s = markCutPending (isDrillEntry k)
      (leaveEach (.echo k) .cut tellSeat (queuedIn (.echo k) (isDrillEntry k)
          (leaveEach (.prompt k) .cut tellSeat (queuedIn (.prompt k) (isDrillEntry k) (reseated k (abandonedSeat (s.seat k)) s))
            (reseated k (abandonedSeat (s.seat k)) s)))
        (leaveEach (.prompt k) .cut tellSeat (queuedIn (.prompt k) (isDrillEntry k) (reseated k (abandonedSeat (s.seat k)) s))
          (reseated k (abandonedSeat (s.seat k)) s))) := rfl
  rw [hunfold, hout _ hprompts]
  change markCutPending (isDrillEntry k) (leaveEach (.echo k) .cut tellSeat
    (queuedIn (.echo k) (isDrillEntry k) (reseated k (abandonedSeat (s.seat k)) s)) _) = _
  rw [hout _ hechoes]
  exact markCutPending_system (s := reseated k (abandonedSeat (s.seat k)) s) haccounted.unseated hflight

end Sys2Proof.Proofs.Next
end

section
/-! PROOFS. O29: NEXT WORD (R46, R48, R49, R126). -/
namespace Sys2Proof.Proofs.NextWord
open Sys2Proof Sys2Proof.Machine Sys2Proof.Safety
open Sys2Proof.Proofs.Refusals Sys2Proof.Proofs.Requests Sys2Proof.Proofs.Seats
open Sys2Proof.Proofs.Reports Sys2Proof.Proofs.Drill Sys2Proof.Proofs.Completion Sys2Proof.Proofs.Keys
open Sys2Proof.Proofs.TakenKeys Sys2Proof.Proofs.Timers Sys2Proof.Proofs.Resume Sys2Proof.Proofs.Next

/-- An event that leaves one seat changed, speaking and without a timer. -/
theorem settle_of_speaking {k : Seat} {c : SeatContext} {e : SpeechEntry} {s x : State} (hl : LinesFollow s)
    (hseats : x.seats = s.seats.set k c) (hprompts : x.lane (.prompt (otherSeat k)) = s.lane (.prompt (otherSeat k)))
    (hechoes : x.lane (.echo (otherSeat k)) = s.lane (.echo (otherSeat k))) (hidle : c.idleTimer = none)
    (he : e ∈ x.lane (.prompt k) ++ x.lane (.echo k)) (hseat : e.seat = some k) :
    settle x = { x with pins := pinLevels x } := by
  have hsettle := settle_one hl hseats hprompts hechoes
  rwa [idleTimerAfter_of_entry he hseat, ← hidle, ← hseats] at hsettle

theorem lane_wordPresented (k : Seat) (w : WordIndex) (h : Handle) (s : State) (i : LaneId) :
    (wordPresented k w h s).lane i =
      if i = .prompt k then s.lane (.prompt k) ++ [freshEntry s (.phrase h) .drillPrompt (some k) none 0] else s.lane i :=
  lane_phraseQueued k h .drillPrompt s i

/-- A letter has been typed over the prompt of a word that has just been presented. -/
def letterOverPrompt (k : Seat) (w : WordIndex) (h : Handle) (letter : Byte) (s : State) : State :=
  let p := wordPresented k w h s
  let line : List Symbol := [{ letter := letter, origin := .typed, mark := .unchecked }]
  { p with
    seats := p.seats.set k { p.seat k with state := .entry, line := line },
    keyQueues := s.keyQueues.set k [],
    mirror := { p.mirror with live := liveWith k .entry (s.word w).letters.length .none 1 line p } }

/-! ## A word in IDLE -/

section Idle
variable {k : Seat} {w : WordIndex} {s : State} (hl : LinesFollow s) (hstate : (s.seat k).state = .idle)
include hl hstate

theorem idleTimer_of_idle : (s.seat k).idleTimer = none :=
  idleTimer_of_state hl (by rw [hstate]; nofun) (by rw [hstate]; nofun)

theorem present_idle {h : Handle} (hprompt : (s.word w).prompt = some h) (hkept : (s.handle h).state = .kept)
    (hroom : (s.lane (.prompt k)).length < 4) : present k w s = wordPresented k w h s := by
  rw [present_eq_of_prompt hprompt hkept hroom, idleTimer_of_idle hl hstate]
  rfl

/-- A word is presented to a seat in IDLE, with no key to take. -/
theorem next_idle_prompt {h : Handle} (hprompt : (s.word w).prompt = some h) (hkept : (s.handle h).state = .kept)
    (hroom : (s.lane (.prompt k)).length < 4) (hkeys : (s.seat k).settings.flush = true ∨ s.keyQueue k = []) :
    EndsAs (settle (nextWord k (some w) s)) (wordPresented k w h s) := by
  rw [nextWord_idle w hstate]
  exact settle_present (t := s) (c := s.seat k) hl (Pair.set_get ..).symm rfl rfl hprompt hkept hroom hkeys

omit hl hstate in
/-- The one letter that waits is taken over the prompt. -/
theorem takeKeys_wordPresented_letter {h : Handle} {letter : Byte} {stamp : Word16} {overrun : Bool}
    (hlow : 1 ≤ letter.toNat) (hhigh : letter.toNat ≤ 27) (hflush : (s.seat k).settings.flush = false)
    (hbarge : (s.seat k).settings.bargeIn = false) (hecho : (s.seat k).settings.echo = false)
    (hcheck : (s.seat k).settings.check = .whole)
    (hkeys : s.keyQueue k = [{ code := letter, kind := .press, stamp := stamp, overrun := overrun }]) :
    takeKeys k (wordPresented k w h s) = letterOverPrompt k w h letter s := by
  let key : KeyEntry := { code := letter, kind := .press, stamp := stamp, overrun := overrun }
  let y := (wordPresented k w h s).setKeyQueue k []
  have hsame : (wordPresented k w h s).keyQueues = s.keyQueues := by
    change flushedKeys k s = s.keyQueues
    rw [flushedKeys, hflush, if_neg Bool.false_ne_true]
  have hqueue : (wordPresented k w h s).keyQueue k = [key] := by rw [State.keyQueue, hsame]; exact hkeys
  have hseat : (wordPresented k w h s).seat k = freshSeat w .present (some s.nextEntryId) none (s.seat k) :=
    Pair.get_set_self ..
  have hyseat : y.seat k = freshSeat w .present (some s.nextEntryId) none (s.seat k) := hseat
  have htarget : y.target k = (s.word w).letters := target_of_some (w := w) (by rw [hyseat]; rfl)
  have hverdict : (y.mirror.live.get k).verdict = .none := verdict_liveWith ..
  have hmark : typedMark (y.seat k).settings.check (y.target k) ((y.seat k).line.length + 1) letter = .unchecked := by
    rw [hyseat, show (freshSeat w .present (some s.nextEntryId) none (s.seat k)).settings.check = .whole from hcheck]
    rfl
  have hquiet : (y.seat k).settings.echo = false := by rw [hyseat]; exact hecho
  have htaken : takeKey k key y = lineShown k (freshSeat w .present (some s.nextEntryId) none (s.seat k))
      [{ letter := letter, origin := .typed, mark := .unchecked }] y := by
    rw [takeKey_letter_room (s := y) (e := key) (by nofun) hlow hhigh (by rw [hyseat]; exact hbarge)
      (by rw [hyseat]; exact Nat.zero_lt_succ 19) hmark, letterSpoken_right (mark := .unchecked) (by nofun), hquiet,
      if_neg Bool.false_ne_true, hyseat]
    rfl
  have hkeysLeft : y.keyQueues = s.keyQueues.set k [] := by
    change (wordPresented k w h s).keyQueues.set k [] = _
    rw [hsame]
  rw [takeKeys_of_one (s := wordPresented k w h s) hqueue (.inl (by rw [hseat]; rfl)), htaken]
  rw [lineShown, htarget, hverdict, hkeysLeft, letterOverPrompt, hseat]
  rfl

theorem next_idle_letter {h : Handle} {letter : Byte} {stamp : Word16} {overrun : Bool}
    (hprompt : (s.word w).prompt = some h) (hkept : (s.handle h).state = .kept)
    (hroom : (s.lane (.prompt k)).length < 4) (hlow : 1 ≤ letter.toNat) (hhigh : letter.toNat ≤ 27)
    (hflush : (s.seat k).settings.flush = false) (hbarge : (s.seat k).settings.bargeIn = false)
    (hecho : (s.seat k).settings.echo = false) (hcheck : (s.seat k).settings.check = .whole)
    (hkeys : s.keyQueue k = [{ code := letter, kind := .press, stamp := stamp, overrun := overrun }]) :
    EndsAs (settle (nextWord k (some w) s)) (letterOverPrompt k w h letter s) := by
  have hlane : ∀ i, (letterOverPrompt k w h letter s).lane i = (wordPresented k w h s).lane i := fun _ => rfl
  have hmem : freshEntry s (.phrase h) .drillPrompt (some k) none 0
      ∈ (letterOverPrompt k w h letter s).lane (.prompt k) ++ (letterOverPrompt k w h letter s).lane (.echo k) := by
    rw [hlane, lane_wordPresented, if_pos rfl]
    exact List.mem_append_left _ (List.mem_append_right _ List.mem_cons_self)
  have hseat : (wordPresented k w h s).seat k = freshSeat w .present (some s.nextEntryId) none (s.seat k) :=
    Pair.get_set_self ..
  rw [nextWord_idle w hstate, present_idle hl hstate hprompt hkept hroom,
    takeKeys_wordPresented_letter hlow hhigh hflush hbarge hecho hcheck hkeys]
  refine ⟨_, settle_of_speaking (k := k) hl (c := { freshSeat w .present (some s.nextEntryId) none (s.seat k) with
    state := .entry, line := [{ letter := letter, origin := .typed, mark := .unchecked }] }) ?_ ?_ ?_ rfl hmem rfl⟩
  · rw [letterOverPrompt, hseat]
    exact Pair.set_set ..
  · rw [hlane, lane_wordPresented, if_neg (by simp)]
  · rw [hlane, lane_wordPresented, if_neg (by simp)]

/-- A word without a prompt. -/
theorem next_idle_missing
    (hmissing : ∀ h, (s.word w).prompt = some h → (s.handle h).state ≠ .kept ∨ 4 ≤ (s.lane (.prompt k)).length)
    (hreports : s.reports.queue.length < 16) (hkeys : (s.seat k).settings.flush = true ∨ s.keyQueue k = []) :
    EndsAs (settle (nextWord k (some w) s))
      { s with
        seats := s.seats.set k (freshSeat w .entry none (idleAtEnd k (s.seat k) s) (s.seat k)),
        keyQueues := flushedKeys k s,
        mirror := { s.mirror with live := liveWith k .entry (s.word w).letters.length .none 1 [] s },
        reports := withRecord s (.seatEvent k .noPrompt) } := by
  let y : State := { s with
    seats := s.seats.set k (freshSeat w .entry none (s.seat k).idleTimer (s.seat k)),
    keyQueues := flushedKeys k s,
    mirror := { s.mirror with live := liveWith k .entry (s.word w).letters.length .none 1 [] s } }
  have hpresent : present k w s = { y with reports := withRecord s (.seatEvent k .noPrompt) } := by
    rw [present_eq_of_no_prompt hmissing, postEvent_eq, offered, if_pos hreports]
    rfl
  have hflushed : (flushedKeys k s).get k = [] := by
    unfold flushedKeys
    split
    case isTrue => exact Pair.get_set_self ..
    case isFalse hno => exact hkeys.resolve_left hno
  have hseat : (present k w s).seat k = freshSeat w .entry none (s.seat k).idleTimer (s.seat k) := by
    rw [hpresent]
    exact Pair.get_set_self ..
  have hafter := idleTimerAfter_atEnd (k := k) (x := present k w s) (by rw [hseat]; exact idleTimer_of_idle hl hstate)
    (by rw [hseat]; exact .inr rfl)
  rw [hseat] at hafter
  have hsettle := settle_one (k := k) (x := present k w s) hl (by rw [hpresent]) (by rw [hpresent]; rfl) (by rw [hpresent]; rfl)
  rw [hafter] at hsettle
  rw [nextWord_idle w hstate, takeKeys_of_empty (by rw [hpresent]; exact hflushed), hsettle, hpresent]
  exact ⟨_, rfl⟩

end Idle

/-! ## A word over an abandoned one -/

/-- A word presented over another context of its seat, when nothing of it is kept. -/
theorem wordPresented_reseated {k : Seat} {c : SeatContext} {s : State}
    (hfresh : ∀ w prompt, freshSeat w .present prompt none c = freshSeat w .present prompt none (s.seat k))
    (hflush : c.settings.flush = (s.seat k).settings.flush) (w : WordIndex) (h : Handle) :
    wordPresented k w h (reseated k c s) = wordPresented k w h s := by
  simp only [wordPresented, flushedKeys, seat_reseated, hflush, hfresh]
  simp only [reseated, phraseQueued, Pair.set_set]
  rfl

/-- A word with a prompt is presented over one that has been abandoned. -/
theorem next_word_prompt {k : Seat} {w : WordIndex} {h : Handle} {s y : State} (hl : LinesFollow s)
    (hstate : (s.seat k).state = .present ∨ (s.seat k).state = .entry)
    (habandon : abandon k s = reseated k (abandonedSeat (s.seat k)) y) (hseats : y.seats = s.seats)
    (hdeck : y.deck = s.deck) (hkeysSame : y.keyQueues = s.keyQueues)
    (hprompts : y.lane (.prompt (otherSeat k)) = s.lane (.prompt (otherSeat k)))
    (hechoes : y.lane (.echo (otherSeat k)) = s.lane (.echo (otherSeat k))) (hprompt : (s.word w).prompt = some h)
    (hkept : (y.handle h).state = .kept) (hroom : (y.lane (.prompt k)).length < 4)
    (hkeys : (s.seat k).settings.flush = true ∨ s.keyQueue k = []) :
    EndsAs (settle (nextWord k (some w) s)) (wordPresented k w h y) := by
  have hseat : y.seat k = s.seat k := by rw [State.seat, hseats]; rfl
  have hword : y.word w = s.word w := Pick.word_of_deck_eq hdeck w
  have hends : EndsAs _ _ := settle_present (w := w) (h := h) (t := reseated k (abandonedSeat (s.seat k)) y)
    (c := abandonedSeat (s.seat k)) hl (by rw [reseated, hseats]) hprompts hechoes
    ((congrArg WordRecord.prompt hword).trans hprompt) hkept hroom
    (hkeys.imp_right fun hempty => (congrArg (fun q => q.get k) hkeysSame).trans hempty)
  rw [wordPresented_reseated (fun _ _ => by rw [hseat]; rfl) (by rw [hseat]; rfl)] at hends
  rw [nextWord_word w hstate, habandon]
  exact hends

/-! ## An empty deck -/

theorem offered_of_room {s : State} (h : s.reports.queue.length < 16) (body : Report) : offered s body = withRecord s body :=
  if_pos h

/-- DECK_EMPTY alone, for a seat in IDLE. -/
theorem next_empty_idle {k : Seat} {s : State} (hl : LinesFollow s) (hstate : (s.seat k).state = .idle)
    (hempty : ∀ w, (s.word w).enabled = false) (hreports : s.reports.queue.length < 16) :
    EndsAs (settle (nextWord k none s)) { s with reports := withRecord s (.seatEvent k .deckEmpty) } := by
  have hnext : nextWord k none s = { s with reports := withRecord s (.seatEvent k .deckEmpty) } := by
    unfold nextWord
    rw [hstate, (Candidates.pickWord_eq_none_iff k s).mpr hempty, ← offered_of_room hreports, ← postEvent_eq]
  rw [hnext]
  exact ⟨_, settle_none hl rfl rfl⟩

/-- An abandoned seat goes to IDLE when there is no word for it. -/
def emptyIdle (k : Seat) (s : State) : State :=
  { s with
    seats :=
      s.seats.set k
        { s.seat k with
          state := .idle, currentWord := none, line := [], nudges := 0, entryMs := 0, presentationPrompt := none,
          idleTimer := none },
    keyQueues := s.keyQueues.set k [],
    mirror :=
      { s.mirror with live := liveWith k .idle 0 (s.mirror.live.get k).verdict (s.seat k).tries [] s },
    reports := withRecord s (.seatEvent k .deckEmpty) }

theorem next_empty_word {k : Seat} {s : State} (hl : LinesFollow s) (haccounted : SpeechAccounted s)
    (hstate : (s.seat k).state = .present ∨ (s.seat k).state = .entry) (hprompts : s.lane (.prompt k) = [])
    (hechoes : s.lane (.echo k) = []) (hflight : ∀ u, s.link.inFlight = some u → u.lane = .system)
    (hempty : ∀ w, (s.word w).enabled = false) (hreports : s.reports.queue.length < 16) :
    EndsAs (settle (nextWord k none s)) (emptyIdle k s) := by
  let c : SeatContext := { abandonedSeat (s.seat k) with state := .idle, currentWord := none, line := [] }
  let x : State := { s with
    seats := s.seats.set k c,
    keyQueues := s.keyQueues.set k [],
    mirror := { s.mirror with live := liveWith k .idle 0 (s.mirror.live.get k).verdict (s.seat k).tries [] s },
    reports := withRecord s (.seatEvent k .deckEmpty) }
  have habandon := abandon_silent haccounted hprompts hechoes hflight
  have hpick : pickWord k (abandon k s) = none :=
    (pickWord_abandon hstate).trans ((Candidates.pickWord_eq_none_iff k s).mpr hempty)
  let y : State := { s with
    seats := s.seats.set k c,
    mirror := { s.mirror with live := liveWith k .idle 0 (s.mirror.live.get k).verdict (s.seat k).tries [] s } }
  have hidle : toIdle k (reseated k (abandonedSeat (s.seat k)) s) = y := by
    rw [toIdle_eq, seat_reseated]
    simp only [seatShown, reseated, Pair.set_set]
    rfl
  have hposted : postEvent k .deckEmpty y = { y with reports := withRecord s (.seatEvent k .deckEmpty) } := by
    rw [postEvent_eq, offered_of_room (s := y) hreports]
    rfl
  have hnext : nextWord k none s = x := by
    rw [nextWord_word_pick hstate, presentPick, hpick]
    simp only
    rw [habandon, hidle, hposted, takeKeys_of_idle (by rw [seat_of_seats (s := s) rfl])]
  have hseat : x.seat k = c := Pair.get_set_self ..
  have hsettle := settle_one (k := k) (x := x) hl rfl rfl rfl
  rw [idleTimerAfter_of_state (by rw [hseat]; nofun) (by rw [hseat]; nofun)] at hsettle
  rw [hnext, hsettle]
  exact ⟨_, rfl⟩

/-! ## The obligation -/

theorem nextWord_pick {k : Seat} {w : WordIndex} {s : State}
    (hstate : (s.seat k).state = .idle ∨ (s.seat k).state = .present ∨ (s.seat k).state = .entry)
    (hpick : pickWord k s = some w) : nextWord k none s = nextWord k (some w) s := by
  rcases hstate with hidle | hword
  · rw [nextWord_idle w hidle]
    unfold nextWord
    rw [hidle, hpick]
  · rw [nextWord_word_pick hword, nextWord_word w hword, presentPick, pickWord_abandon hword, hpick]

theorem speechAccounted_carriedFrom {s : State} (reply : List Byte) (h : SpeechAccounted s) :
    SpeechAccounted (carriedFrom s reply) :=
  ⟨h.numbered, h.distinct, h.unseated, h.seated, h.echoes, h.references, h.empty⟩

theorem lane_speechLeft (k : Seat) (prompts : List SpeechEntry) (s : State) (i : LaneId) :
    (speechLeft k prompts s).lane i = if i = .prompt k then prompts else if i = .echo k then [] else s.lane i := by
  have hlanes : speechLeft k prompts s = (s.setLane (.echo k) []).setLane (.prompt k) prompts := rfl
  rw [hlanes, State.lane_setLane, State.lane_setLane]

theorem lane_speechLeft_other (k : Seat) (prompts : List SpeechEntry) (s : State) :
    (speechLeft k prompts s).lane (.prompt (otherSeat k)) = s.lane (.prompt (otherSeat k))
      ∧ (speechLeft k prompts s).lane (.echo (otherSeat k)) = s.lane (.echo (otherSeat k)) := by
  simp [lane_speechLeft]

theorem handle_referenceGivenUp (g h : Handle) (s : State) :
    ((referenceGivenUp g s).handle h).state = (s.handle h).state := by
  have hhandle : (referenceGivenUp g s).handle h =
      if h = g then { s.handle g with references := (s.handle g).references - 1 } else s.handle h :=
    Pages.handle_of_set rfl h
  rw [hhandle]
  split
  case isTrue hgh => rw [hgh]
  case isFalse => rfl

/-- Settles O29: by the seat's state, and by whether the word's prompt, a key, a word to go on to, is there. -/
theorem nextWordPresentsTheWord : Obligations.NextWordPresentsTheWord := by
  unfold Obligations.NextWordPresentsTheWord
  refine ⟨fun k w s h hl _ hstate henabled => ⟨fun g hprompt hkept hroom => ⟨fun hkeys => ?_, ?_⟩, ?_⟩, ?_,
    fun k w s h hstate hpick => ?_, fun k s h hl _ hempty hreports => ⟨fun hstate => ?_, ?_⟩,
    fun k x s h hx hidle hpresent hentry => ?_⟩
  case refine_1 =>
    exact (next_idle_prompt (s := carriedFrom s []) (linesFollow_carriedFrom [] hl) hstate hprompt hkept hroom hkeys).next
      (exec_nextWord h (readNextRequest_word henabled) (.inl hstate))
  case refine_2 =>
    intro letter stamp overrun hlow hhigh hflush hbarge hecho hcheck hkeys
    exact (next_idle_letter (s := carriedFrom s []) (linesFollow_carriedFrom [] hl) hstate hprompt hkept hroom hlow hhigh
      hflush hbarge hecho hcheck hkeys).next (exec_nextWord h (readNextRequest_word henabled) (.inl hstate))
  case refine_3 =>
    intro hmissing hreports hkeys
    exact (next_idle_missing (s := carriedFrom s []) (linesFollow_carriedFrom [] hl) hstate hmissing hreports hkeys).next
      (exec_nextWord h (readNextRequest_word henabled) (.inl hstate))
  case refine_4 =>
    intro k w g h e spoken s hport hl _ haccounted hstate henabled hprompt hkept hkeys hfeedback hlane hlength hspoken horigin
      hseat htag hcontent hgkept hechoes
    have hl' : LinesFollow (carriedFrom s []) := linesFollow_carriedFrom [] hl
    have hexec := exec_nextWord hport (readNextRequest_word (k := k) henabled) (.inr hstate)
    refine ⟨fun hqueued hflight => ?_, fun u hstreaming hu hulane => ?_⟩
    · have habandon := abandon_queued (s := carriedFrom s []) (speechAccounted_carriedFrom [] haccounted) hfeedback hlane
        hspoken hechoes hqueued horigin hseat htag hcontent hgkept hflight
      refine (next_word_prompt hl' hstate habandon rfl rfl rfl (lane_speechLeft_other ..).1 (lane_speechLeft_other ..).2
        hprompt ((handle_referenceGivenUp g h s).trans hkept) ?_ hkeys).next hexec
      rw [lane_speechLeft, if_pos rfl]
      exact Nat.lt_of_le_of_lt hlength (by decide)
    · have habandon := abandon_streaming (s := carriedFrom s []) (speechAccounted_carriedFrom [] haccounted) hfeedback hlane
        hspoken hechoes hstreaming horigin hseat hu hulane
      refine (next_word_prompt hl' hstate habandon rfl rfl rfl (lane_speechLeft_other ..).1 (lane_speechLeft_other ..).2
        hprompt hkept ?_ hkeys).next hexec
      rw [lane_speechLeft, if_pos rfl]
      exact Nat.lt_of_le_of_lt (Nat.succ_le_succ hlength) (by decide)
  case refine_5 =>
    have hread := exec_nextWord h (readNextRequest_pick k s) hstate
    have hword := exec_nextWord h (readNextRequest_word (k := k) (enabled_of_pickWord hpick)) hstate
    rw [hread, hword, nextWord_pick (s := carriedFrom s []) hstate]
    exact hpick
  case refine_6 =>
    exact (next_empty_idle (s := carriedFrom s []) (linesFollow_carriedFrom [] hl) hstate hempty hreports).next
      (exec_nextWord h (readNextRequest_pick k s) (.inl hstate))
  case refine_7 =>
    intro hstate hprompts hechoes hflight haccounted
    exact (next_empty_word (s := carriedFrom s []) (linesFollow_carriedFrom [] hl) (speechAccounted_carriedFrom [] haccounted)
      hstate hprompts hechoes hflight hempty hreports).next (exec_nextWord h (readNextRequest_pick k s) (.inr hstate))
  case refine_8 =>
    obtain ⟨index, hread⟩ := readNextRequest_some (k := k) hx
    exact exec_nextWord_refused h hread hidle hpresent hentry

end Sys2Proof.Proofs.NextWord
end

section
/-! PROOFS. STOP SEAT (R44, R113, R127). -/
namespace Sys2Proof.Proofs.Stop
open Sys2Proof Sys2Proof.Machine Sys2Proof.Safety
open Sys2Proof.Proofs.Refusals Sys2Proof.Proofs.Requests Sys2Proof.Proofs.Say Sys2Proof.Proofs.Seats
open Sys2Proof.Proofs.Reports Sys2Proof.Proofs.Drill Sys2Proof.Proofs.Completion Sys2Proof.Proofs.Keys
open Sys2Proof.Proofs.BargeIn Sys2Proof.Proofs.Leaving Sys2Proof.Proofs.Next Sys2Proof.Proofs.Resume
open Sys2Proof.Proofs.NextWord

/-! ## The entry in flight of a seat that stops -/

/-- An entry that names the seat. -/
def ownedBy (k : Seat) (e : SpeechEntry) : Bool := decide (e.seat = some k)

theorem ownedBy_iff (k : Seat) (e : SpeechEntry) : ownedBy k e = true ↔ e.seat = some k := decide_eq_true_iff

/-- The entry in flight of a seat that stops (R113, R127). -/
def orphaned (e : SpeechEntry) : SpeechEntry :=
  { e with seat := none, cutPending := e.cutPending || decide (e.state = .streaming) }

theorem inFlightEntry_eq {s : State} {u : Utterance} (hu : s.link.inFlight = some u) :
    inFlightEntry s = (s.lane u.lane).head? := by rw [inFlightEntry, hu]

section Orphan
variable {k : Seat} {s : State}

theorem orphan_of_not (h : ∀ e, inFlightEntry s = some e → e.seat ≠ some k) :
    orphanInFlight k (markCutPending (ownedBy k) s) = s := by
  have hmark : markCutPending (ownedBy k) s = s := markCutPending_of_not fun e he => by
    rw [Bool.eq_false_iff.mpr fun ho => h e he ((ownedBy_iff k e).mp ho), Bool.and_false]
  rw [hmark]
  unfold orphanInFlight
  cases he : inFlightEntry s with
  | none => rfl
  | some e => exact if_neg (h e he)

theorem orphanInFlight_of {u : Utterance} {e : SpeechEntry} {rest : List SpeechEntry} (hu : s.link.inFlight = some u)
    (hlane : s.lane u.lane = e :: rest) (hseat : e.seat = some k) :
    orphanInFlight k s = s.setLane u.lane ({ e with seat := none } :: rest) := by
  have he : inFlightEntry s = some e := by rw [inFlightEntry_eq hu, hlane]; rfl
  simp only [orphanInFlight, he, hseat, if_true, setInFlightEntry, hu, hlane, List.tail_cons]

theorem setLane_setLane (i : LaneId) (x y : List SpeechEntry) : (s.setLane i x).setLane i y = s.setLane i y := by
  simp only [State.setLane, lanes_set_set]

theorem orphan_of {u : Utterance} {e : SpeechEntry} {rest : List SpeechEntry} (hu : s.link.inFlight = some u)
    (hlane : s.lane u.lane = e :: rest) (hseat : e.seat = some k) :
    orphanInFlight k (markCutPending (ownedBy k) s) = s.setLane u.lane (orphaned e :: rest) := by
  by_cases hstreaming : e.state = .streaming
  · rw [markCutPending_of hu (by rw [hlane]; rfl) hstreaming ((ownedBy_iff k e).mpr hseat), hlane, List.tail_cons,
      orphanInFlight_of (s := s.setLane u.lane ({ e with cutPending := true } :: rest)) hu
        (State.lane_setLane_self s u.lane _) hseat, setLane_setLane, orphaned, hstreaming]
    simp
  · have hmark : markCutPending (ownedBy k) s = s := markCutPending_of_not fun e' he' => by
      rw [inFlightEntry_eq hu, hlane] at he'
      cases he'
      rw [decide_eq_false hstreaming, Bool.false_and]
    rw [hmark, orphanInFlight_of hu hlane hseat, orphaned, decide_eq_false hstreaming, Bool.or_false]

end Orphan

/-! ## What leaves -/

/-- A seat's context after a stop (R44). -/
def stoppedSeat (c : SeatContext) : SeatContext := { SeatContext.reset with round := c.round, settings := c.settings }

/-- The seat is off, with no key, and its image shows it; its speech has not left yet. -/
def offShown (k : Seat) (s : State) : State :=
  { s with
    seats := s.seats.set k (stoppedSeat (s.seat k)),
    keyQueues := s.keyQueues.set k [],
    mirror := { s.mirror with live := liveWith k .off 0 .none 1 [] s } }

/-- The seat is off, and its queued entries have left as CANCELLED. -/
def silenced (k : Seat) (s : State) : State :=
  gone (.echo k) .cancelled (queuedIn (.echo k) (ownedBy k) s)
    (gone (.prompt k) .cancelled (queuedIn (.prompt k) (ownedBy k) s) (offShown k s))

theorem seat_of_owned {k : Seat} {i : LaneId} {s : State} : ∀ e ∈ queuedIn i (ownedBy k) s, e.seat = some k := fun e he => by
  have howned := (List.mem_filter.mp he).2
  rw [Bool.and_eq_true] at howned
  exact (ownedBy_iff k e).mp howned.2

/-- A stop once the seat is off. -/
def stopFrom (k : Seat) (off : State) : State :=
  let t := leaveEach (.prompt k) .cancelled tellSeat (queuedIn (.prompt k) (ownedBy k) off) off
  let u := leaveEach (.echo k) .cancelled tellSeat (queuedIn (.echo k) (ownedBy k) t) t
  orphanInFlight k (markCutPending (ownedBy k) u)

theorem stopSeat_eq_stopFrom (k : Seat) (s : State) : stopSeat k s = stopFrom k (offShown k s) := by
  refine congrArg (stopFrom k) ?_
  have hseat : ((s.mapSeat k fun c => stoppedSeat c).setKeyQueue k []).seat k = stoppedSeat (s.seat k) :=
    State.seat_mapSeat_self s k _
  have htarget : ((s.mapSeat k fun c => stoppedSeat c).setKeyQueue k []).target k = [] :=
    target_of_none (by rw [hseat]; rfl)
  change writeImage k .none ((s.mapSeat k fun c => stoppedSeat c).setKeyQueue k []) = offShown k s
  rw [writeImage_eq, hseat, htarget]
  rfl

theorem stopSeat_eq (k : Seat) (s : State) :
    stopSeat k s = orphanInFlight k (markCutPending (ownedBy k) (silenced k s)) := by
  have huntold : Untold k (offShown k s) := by
    rw [Untold, seat_of_seats (s := s) (x := offShown k s) rfl]
    exact ⟨rfl, rfl⟩
  have hechoes : ∀ es, queuedIn (.echo k) (ownedBy k) (gone (.prompt k) .cancelled es (offShown k s))
      = queuedIn (.echo k) (ownedBy k) s := fun es => by
    rw [queuedIn, queuedIn, State.lane, gone]
    exact congrArg _ (State.lane_setLane s (.prompt k) (.echo k) _)
  simp only [stopSeat_eq_stopFrom, stopFrom]
  rw [leaveEach_gone huntold seat_of_owned, hechoes]
  exact congrArg (fun u => orphanInFlight k (markCutPending (ownedBy k) u))
    (leaveEach_gone (k := k) (s := gone ..) huntold seat_of_owned)

section Silenced
variable {k : Seat} {s : State} (haccounted : SpeechAccounted s)
include haccounted

/-- Of a stopping seat's lanes what is not queued stays, and what names no seat any more. -/
theorem lane_silenced (i : LaneId) :
    (silenced k s).lane i =
      if i = .prompt k ∨ i = .echo k then (s.lane i).filter (fun e => !(decide (e.state = .queued) && ownedBy k e))
      else s.lane i := by
  have hprompts : (gone (.prompt k) .cancelled (queuedIn (.prompt k) (ownedBy k) s) (offShown k s)).lane i
      = if i = .prompt k then (s.lane i).filter (fun e => !(decide (e.state = .queued) && ownedBy k e)) else s.lane i := by
    have hlane := lane_gone (s := offShown k s) (i := .prompt k) .cancelled
      (fun e => decide (e.state = .queued) && ownedBy k e) (haccounted.distinct _) i
    refine hlane.trans ?_
    split
    case isTrue hi => rw [hi]; rfl
    case isFalse => rfl
  have hsame : (gone (.prompt k) .cancelled (queuedIn (.prompt k) (ownedBy k) s) (offShown k s)).lane (.echo k)
      = s.lane (.echo k) := (State.lane_setLane s (.prompt k) (.echo k) _)
  have hechoes := lane_gone (s := gone (.prompt k) .cancelled (queuedIn (.prompt k) (ownedBy k) s) (offShown k s))
    (i := .echo k) .cancelled (fun e => decide (e.state = .queued) && ownedBy k e)
    (by rw [hsame]; exact haccounted.distinct _) i
  rw [hsame, hprompts] at hechoes
  refine hechoes.trans ?_
  by_cases hi : i = .echo k
  · rw [if_pos hi, if_pos (.inr hi), hi]
  · rw [if_neg hi]
    by_cases hj : i = .prompt k
    · rw [if_pos hj, if_pos (.inl hj)]
    · rw [if_neg hj, if_neg (by simp [hi, hj])]

theorem inFlight_seat {u : Utterance} {e : SpeechEntry} {rest : List SpeechEntry}
    (hlane : (silenced k s).lane u.lane = e :: rest) (hseat : e.seat = some k) :
    u.lane = .prompt k ∨ u.lane = .echo k := by
  have hmem : e ∈ s.lane u.lane := by
    have he : e ∈ (silenced k s).lane u.lane := hlane ▸ List.mem_cons_self
    rw [lane_silenced haccounted] at he
    split at he
    case isTrue => exact (List.mem_filter.mp he).1
    case isFalse => exact he
  have hnamed : ∀ j, e ∈ s.lane (.prompt j) ++ s.lane (.echo j) → j = k := fun j hj =>
    (haccounted.seated j e hj).elim (fun h => Option.some.inj (h.symm.trans hseat)) fun h => nomatch hseat.symm.trans h
  cases hi : u.lane with
  | system =>
    rw [hi] at hmem
    exact nomatch hseat.symm.trans (haccounted.unseated e hmem)
  | prompt j =>
    rw [hi] at hmem
    exact .inl (by rw [hnamed j (List.mem_append_left _ hmem)])
  | echo j =>
    rw [hi] at hmem
    exact .inr (by rw [hnamed j (List.mem_append_right _ hmem)])

/-- The entry in flight is the seat's and has been orphaned, or it is not and nothing more has happened. -/
theorem stopSeat_cases :
    (stopSeat k s = silenced k s)
      ∨ ∃ i e rest, (i = .prompt k ∨ i = .echo k) ∧ (silenced k s).lane i = e :: rest
        ∧ stopSeat k s = (silenced k s).setLane i (orphaned e :: rest) := by
  rw [stopSeat_eq]
  by_cases h : ∃ u e rest, (silenced k s).link.inFlight = some u ∧ (silenced k s).lane u.lane = e :: rest ∧ e.seat = some k
  · obtain ⟨u, e, rest, hu, hlane, hseat⟩ := h
    exact .inr ⟨u.lane, e, rest, inFlight_seat haccounted hlane hseat, hlane, orphan_of hu hlane hseat⟩
  · refine .inl (orphan_of_not fun e he hseat => ?_)
    cases hu : (silenced k s).link.inFlight with
    | none =>
      rw [inFlightEntry, hu] at he
      cases he
    | some u =>
      rw [inFlightEntry_eq hu, List.head?_eq_some_iff] at he
      obtain ⟨rest, hlane⟩ := he
      exact h ⟨u, e, rest, hu, hlane, hseat⟩

/-- A stop touches, of what is not the seat's, the phrases' references and the reports alone. -/
theorem stopSeat_lanes :
    stopSeat k s = { silenced k s with lanes := (stopSeat k s).lanes }
      ∧ (stopSeat k s).lanes.feedback = s.lanes.feedback ∧ (stopSeat k s).lanes.dropped = s.lanes.dropped
      ∧ ∀ i, i ≠ .prompt k → i ≠ .echo k → (stopSeat k s).lane i = s.lane i := by
  have hother : ∀ i, i ≠ .prompt k → i ≠ .echo k → (silenced k s).lane i = s.lane i := fun i hp he => by
    rw [lane_silenced haccounted, if_neg (by simp [hp, he])]
  have hfeedback : (silenced k s).lanes.feedback = s.lanes.feedback := by simp [silenced, gone, offShown]
  have hdropped : (silenced k s).lanes.dropped = s.lanes.dropped := by simp [silenced, gone, offShown]
  rcases stopSeat_cases haccounted (k := k) with h | ⟨i, e, rest, hi, -, h⟩
  · rw [h]
    exact ⟨rfl, hfeedback, hdropped, hother⟩
  · rw [h]
    refine ⟨rfl, by simp [hfeedback], ?_, fun j hp he => ?_⟩
    · rw [← hdropped]
      exact Lanes.set_dropped _ _ _
    · have hne : j ≠ i := by rcases hi with rfl | rfl <;> assumption
      rw [State.lane_setLane, if_neg hne, hother j hp he]

/-- Nothing of the stopped seat waits any more. -/
theorem not_queued_stopSeat {e : SpeechEntry} (he : e ∈ (stopSeat k s).lane (.prompt k) ++ (stopSeat k s).lane (.echo k))
    (hseat : e.seat = some k) : e.state ≠ .queued := by
  have hleft : ∀ i x, (i = .prompt k ∨ i = .echo k) → x ∈ (silenced k s).lane i → x.seat = some k → x.state ≠ .queued := by
    intro i x hi hx hxseat hqueued
    rw [lane_silenced haccounted, if_pos hi, List.mem_filter, hqueued, (ownedBy_iff k x).mpr hxseat] at hx
    exact Bool.false_ne_true hx.2
  obtain ⟨i, hi, hmem⟩ : ∃ i, (i = .prompt k ∨ i = .echo k) ∧ e ∈ (stopSeat k s).lane i :=
    (List.mem_append.mp he).elim (fun h => ⟨_, .inl rfl, h⟩) fun h => ⟨_, .inr rfl, h⟩
  rcases stopSeat_cases haccounted (k := k) with h | ⟨j, x, rest, hj, hlane, h⟩
  · rw [h] at hmem
    exact hleft i e hi hmem hseat
  · rw [h, State.lane_setLane] at hmem
    split at hmem
    case isTrue hij =>
      rcases List.mem_cons.mp hmem with rfl | hrest
      · cases hseat
      · exact hleft j e hj (hlane ▸ List.mem_cons_of_mem _ hrest) hseat
    case isFalse => exact hleft i e hi hmem hseat

end Silenced

/-! ## Pages, records -/

theorem pages_entryReleased (e : SpeechEntry) (s : State) : (entryReleased s e).phrases.pages = s.phrases.pages := by
  unfold entryReleased
  cases e.content with
  | phrase h =>
    simp only [releaseReference, returnPages]
    split <;> rfl
  | letter _ => rfl
  | cue _ => rfl

theorem pages_foldl_entryReleased (es : List SpeechEntry) (s : State) :
    (es.foldl entryReleased s).phrases.pages = s.phrases.pages := by
  induction es generalizing s with
  | nil => rfl
  | cons e es ih => rw [List.foldl_cons, ih, pages_entryReleased]

theorem pages_silenced (k : Seat) (s : State) : (silenced k s).phrases.pages = s.phrases.pages := by
  rw [silenced, gone, pages_foldl_entryReleased, gone, pages_foldl_entryReleased]
  rfl

/-- The tagged entries of a stopping seat offer their records, the prompt lane's first. -/
theorem reports_silenced (k : Seat) (s : State) :
    (silenced k s).reports =
      ((queuedIn (.prompt k) (ownedBy k) s ++ queuedIn (.echo k) (ownedBy k) s).foldl (doneTold .cancelled) s).reports := by
  have hclock : ∀ (es : List SpeechEntry) (t : State), (es.foldl (doneTold .cancelled) t).clock = t.clock := fun es t => by
    induction es generalizing t with
    | nil => rfl
    | cons e es ih => rw [List.foldl_cons, ih, doneTold_clock]
  rw [List.foldl_append]
  exact foldl_doneTold_congr _ _ (hclock _ s).symm (foldl_doneTold_congr (s := s) (t := offShown k s) _ _ rfl rfl)

/-- Waiting entries offer a SPEECH_DONE each, if they have a tag. -/
theorem foldl_doneTold_waits {k : Seat} {es : List SpeechEntry} (h : ∀ e ∈ es, Waits k e) (s : State) :
    es.foldl (doneTold .cancelled) s =
      (es.filter fun e => decide (e.tag ≠ 0)).foldl
        (fun x e => { x with reports := offered x (.speechDone e.tag .cancelled (some k) none) }) s := by
  induction es generalizing s with
  | nil => rfl
  | cons e es ih =>
    obtain ⟨⟨_, hseat, hchannel⟩, hrest⟩ := List.forall_mem_cons.mp h
    rw [List.foldl_cons, ih hrest]
    by_cases htag : e.tag = 0
    · rw [List.filter_cons_of_neg (by simp [htag]), doneTold, if_pos htag]
    · rw [List.filter_cons, if_pos (decide_eq_true htag), List.foldl_cons, doneTold, if_neg htag, hseat, hchannel]

/-! ## Lanes whose queued entries are all the seat's -/

/-- The entries of a stopping seat's lane that stay. -/
def staying (k : Seat) (e : SpeechEntry) : Bool := !(decide (e.state = .queued) && ownedBy k e)

theorem staying_of_waits {k : Seat} {e : SpeechEntry} (h : Waits k e) : staying k e = false := by
  obtain ⟨hstate, hseat, -⟩ := h
  rw [staying, decide_eq_true hstate, (ownedBy_iff k e).mpr hseat]
  rfl

theorem staying_of_state {k : Seat} {e : SpeechEntry} (h : e.state ≠ .queued) : staying k e = true := by
  rw [staying, decide_eq_false h]
  rfl

theorem filter_staying_waits {k : Seat} {es : List SpeechEntry} (h : ∀ e ∈ es, Waits k e) :
    es.filter (staying k) = [] :=
  List.filter_eq_nil_iff.mpr fun e he => by rw [staying_of_waits (h e he)]; exact Bool.false_ne_true

theorem filter_staying_inFlight {k : Seat} {e : SpeechEntry} {es : List SpeechEntry} (hstate : e.state ≠ .queued)
    (h : ∀ x ∈ es, Waits k x) : (e :: es).filter (staying k) = [e] := by
  rw [List.filter_cons_of_pos (staying_of_state hstate), filter_staying_waits h]

section Waiting
variable {k : Seat} {s : State}

theorem queuedIn_waits {i : LaneId} (h : ∀ e ∈ s.lane i, Waits k e) : queuedIn i (ownedBy k) s = s.lane i :=
  queuedIn_all fun e he => ⟨(h e he).1, (ownedBy_iff k e).mpr (h e he).2.1⟩

theorem queuedIn_inFlight {i : LaneId} {e : SpeechEntry} {es : List SpeechEntry} (hlane : s.lane i = e :: es)
    (hstate : e.state ≠ .queued) (h : ∀ x ∈ es, Waits k x) : queuedIn i (ownedBy k) s = es := by
  have hhead : ¬ (decide (e.state = .queued) && ownedBy k e) = true := by
    rw [decide_eq_false hstate]
    exact Bool.false_ne_true
  have hrest : es.filter (fun x => decide (x.state = .queued) && ownedBy k x) = es :=
    List.filter_eq_self.mpr fun x hx => by
      rw [decide_eq_true (h x hx).1, (ownedBy_iff k x).mpr (h x hx).2.1]
      rfl
  rw [queuedIn, hlane, List.filter_cons, if_neg hhead, hrest]

variable (haccounted : SpeechAccounted s)
include haccounted

/-- The records of a stop, when what leaves is known: they follow from the clock and the records before it. -/
theorem reports_stopSeat {t : State} (hclock : s.clock = t.clock) (hsame : s.reports = t.reports)
    {prompts echoes : List SpeechEntry} (hprompts : queuedIn (.prompt k) (ownedBy k) s = prompts)
    (hechoes : queuedIn (.echo k) (ownedBy k) s = echoes) (h : ∀ e ∈ prompts ++ echoes, Waits k e) :
    (stopSeat k s).reports =
      (((prompts ++ echoes).filter fun e => decide (e.tag ≠ 0)).foldl
        (fun x e => { x with reports := offered x (.speechDone e.tag .cancelled (some k) none) }) t).reports := by
  have hstop : (stopSeat k s).reports = (silenced k s).reports := by rw [(stopSeat_lanes haccounted).1]
  rw [hstop, reports_silenced, hprompts, hechoes, foldl_doneTold_congr _ _ hclock hsame, foldl_doneTold_waits h]

/-- Nothing of the seat's lanes is in flight. -/
theorem stopSeat_waiting (hflight : ∀ u, s.link.inFlight = some u → u.lane ≠ .prompt k ∧ u.lane ≠ .echo k) :
    stopSeat k s = silenced k s := by
  rw [stopSeat_eq]
  refine orphan_of_not fun e he hseat => ?_
  cases hu : (silenced k s).link.inFlight with
  | none =>
    rw [inFlightEntry, hu] at he
    cases he
  | some u =>
    rw [inFlightEntry_eq hu, List.head?_eq_some_iff] at he
    obtain ⟨rest, hlane⟩ := he
    have hnot := hflight u hu
    exact (inFlight_seat haccounted hlane hseat).elim hnot.1 hnot.2

/-- The seat's lanes when everything in them waits. -/
theorem lane_stopSeat_waiting {i : LaneId} (hi : i = .prompt k ∨ i = .echo k)
    (hflight : ∀ u, s.link.inFlight = some u → u.lane ≠ .prompt k ∧ u.lane ≠ .echo k) (h : ∀ e ∈ s.lane i, Waits k e) :
    (stopSeat k s).lane i = [] := by
  rw [stopSeat_waiting haccounted hflight, lane_silenced haccounted, if_pos hi]
  exact filter_staying_waits h

/-- The entry in flight in a lane of the seat: it stays alone, as an orphan. -/
theorem lane_stopSeat_inFlight {u : Utterance} {e : SpeechEntry} {es : List SpeechEntry} (hu : s.link.inFlight = some u)
    (hi : u.lane = .prompt k ∨ u.lane = .echo k) (hlane : s.lane u.lane = e :: es) (hstate : e.state ≠ .queued)
    (h : ∀ x ∈ es, Waits k x) (j : LaneId) :
    (stopSeat k s).lane j =
      if j = u.lane then [if e.seat = some k then orphaned e else e] else (silenced k s).lane j := by
  have hleft : (silenced k s).lane u.lane = [e] := by
    rw [lane_silenced haccounted, if_pos hi, hlane]
    exact filter_staying_inFlight hstate h
  rw [stopSeat_eq]
  by_cases hseat : e.seat = some k
  · rw [orphan_of (s := silenced k s) hu hleft hseat, if_pos hseat]
    exact State.lane_setLane ..
  · rw [orphan_of_not fun x hx => ?_, if_neg hseat]
    · by_cases hj : j = u.lane
      · rw [if_pos hj, hj, hleft]
      · rw [if_neg hj]
    · rw [inFlightEntry_eq (s := silenced k s) hu, hleft] at hx
      cases hx
      exact hseat

/-- The other lane of the seat is empty then. -/
theorem lane_stopSeat_beside {u : Utterance} {e : SpeechEntry} {es : List SpeechEntry} (hu : s.link.inFlight = some u)
    (hi : u.lane = .prompt k ∨ u.lane = .echo k) (hlane : s.lane u.lane = e :: es) (hstate : e.state ≠ .queued)
    (h : ∀ x ∈ es, Waits k x) {j : LaneId} (hj : j = .prompt k ∨ j = .echo k) (hne : j ≠ u.lane)
    (hwaits : ∀ x ∈ s.lane j, Waits k x) : (stopSeat k s).lane j = [] := by
  rw [lane_stopSeat_inFlight haccounted hu hi hlane hstate h, if_neg hne, lane_silenced haccounted, if_pos hj]
  exact filter_staying_waits hwaits

end Waiting

/-! ## The frame -/

theorem exec_stopSeat {k : Seat} {s : State} (h : PortIdle s) (hstate : (s.seat k).state ≠ .off) :
    exec (.stopSeat .frameEnd (seatCode k)) s =
      .next { settle (stopSeat k (carriedFrom s [])) with port := framePort s .ok [] } := by
  have hcarry : carryStopSeat (seatCode k) (carriedFrom s []) = (.ok, settle (stopSeat k (carriedFrom s []))) := by
    rw [carryStopSeat, carryContent_seat, show (carriedFrom s []).seat k = s.seat k from rfl]
    split
    case h_1 hoff => exact absurd hoff hstate
    all_goals rfl
  have hport : (settle (stopSeat k (carriedFrom s []))).port = (carriedFrom s []).port := by simp
  refine exec_carried (reply := []) h rfl (checkContent_some (readSeatByte_code k) _) hcarry ?_
  rw [recordOutcome, hport]
  rfl

theorem exec_stopSeat_refused {k : Seat} {s : State} (h : PortIdle s) (hstate : (s.seat k).state = .off) :
    exec (.stopSeat .frameEnd (seatCode k)) s = .next { s with port := framePort s .state [] } := by
  have hcarry : carryStopSeat (seatCode k) (carriedFrom s []) = (.state, carriedFrom s []) := by
    rw [carryStopSeat, carryContent_seat, show (carriedFrom s []).seat k = s.seat k from rfl, hstate]
  exact exec_carried h rfl (checkContent_some (readSeatByte_code k) _) hcarry rfl

/-- The seat is off, so no timer starts. -/
theorem settle_stopSeat {k : Seat} {s : State} (hl : LinesFollow s) (haccounted : SpeechAccounted s) :
    settle (stopSeat k s) = { stopSeat k s with pins := pinLevels (stopSeat k s) } := by
  obtain ⟨hrest, -, -, hother⟩ := stopSeat_lanes (k := k) haccounted
  have hseats : (stopSeat k s).seats = s.seats.set k (stoppedSeat (s.seat k)) := congrArg State.seats hrest
  have hseat : (stopSeat k s).seat k = stoppedSeat (s.seat k) := seat_of_seats hseats
  have hsettle := settle_one hl hseats (hother _ (by simp) (by simp)) (hother _ (by simp) (by simp))
  rw [idleTimerAfter_of_state (by rw [hseat]; nofun) (by rw [hseat]; nofun)] at hsettle
  exact hsettle.trans (congrArg (fun seats => { stopSeat k s with seats := seats, pins := pinLevels (stopSeat k s) }) hseats.symm)

/-- What an image write shows. -/
theorem shown_liveWith (k : Seat) (x : ShownState) (length : Nat) (v : Verdict) (tries : Byte) (line : List Symbol)
    (s : State) :
    ∃ generation, (liveWith k x length v tries line s).get k =
      { generation := generation, state := x, targetLength := length, verdict := v, tries := tries, symbols := line } := by
  rw [liveWith, Pair.get_set_self]
  split
  case isTrue hsame => exact ⟨_, hsame.symm⟩
  case isFalse => exact ⟨_, rfl⟩

/-- What a stop may touch. -/
theorem stopSeat_frame {k : Seat} {s : State} (haccounted : SpeechAccounted s) :
    stopSeat k s =
      { s with
        seats := (stopSeat k s).seats, keyQueues := (stopSeat k s).keyQueues,
        phrases :=
          { s.phrases with free := (stopSeat k s).phrases.free, handles := (stopSeat k s).phrases.handles },
        lanes :=
          { s.lanes with
            system := (stopSeat k s).lanes.system, prompt := (stopSeat k s).lanes.prompt,
            echo := (stopSeat k s).lanes.echo },
        reports := (stopSeat k s).reports, mirror := { s.mirror with live := (stopSeat k s).mirror.live } } := by
  obtain ⟨hrest, hfeedback, hdropped, -⟩ := stopSeat_lanes (k := k) haccounted
  have hpages : (stopSeat k s).phrases.pages = s.phrases.pages := by
    rw [hrest]
    exact pages_silenced k s
  generalize stopSeat k s = t at hrest hfeedback hdropped hpages
  simp only [← hfeedback, ← hdropped, ← hpages]
  obtain ⟨lanes, rfl⟩ : ∃ lanes, t = { silenced k s with lanes := lanes } := ⟨_, hrest⟩
  rfl

/-- Settles O31: the queued entries leave both lanes, and the entry in flight is or is not the seat's. -/
theorem stopSeatClearsTheSeat : Obligations.StopSeatClearsTheSeat := by
  unfold Obligations.StopSeatClearsTheSeat
  intro k s h hl haccounted
  refine ⟨fun hstate => ?_, exec_stopSeat_refused h⟩
  have ha : SpeechAccounted (carriedFrom s []) := speechAccounted_carriedFrom [] haccounted
  have hexec := exec_stopSeat h hstate
  rw [settle_stopSeat (linesFollow_carriedFrom [] hl) ha] at hexec
  obtain ⟨hrest, hfeedback, hdropped, hother⟩ := stopSeat_lanes (k := k) ha
  obtain ⟨generation, hshown⟩ := shown_liveWith k .off 0 .none 1 [] s
  have hseats : (stopSeat k (carriedFrom s [])).seats = s.seats.set k (stoppedSeat (s.seat k)) := congrArg State.seats hrest
  have hkeys : (stopSeat k (carriedFrom s [])).keyQueues = s.keyQueues.set k [] := congrArg State.keyQueues hrest
  have hmirror : (stopSeat k (carriedFrom s [])).mirror = { s.mirror with live := liveWith k .off 0 .none 1 [] s } :=
    congrArg State.mirror hrest
  refine ⟨_, hexec, ?_, ?_, ?_, ?_, fun e he hseat => not_queued_stopSeat ha he hseat, hother _ (by simp) (by simp),
    hother _ (by simp) (by simp), hother _ (by simp) (by simp), ⟨fun hflight hwaits => ⟨?_, ?_, ?_⟩, ?_⟩, ?_, ?_, ?_, ?_,
    ?_, ?_, ?_⟩
  case refine_1 => exact seat_of_seats hseats
  case refine_2 => exact (congrArg (fun p => p.get (otherSeat k)) hseats).trans (Pair.get_set_other ..)
  case refine_3 => exact (congrArg (fun p => p.get k) hkeys).trans (Pair.get_set_self ..)
  case refine_4 => exact (congrArg (fun p => p.get (otherSeat k)) hkeys).trans (Pair.get_set_other ..)
  case refine_5 => exact lane_stopSeat_waiting ha (.inl rfl) hflight fun e he => hwaits e (List.mem_append_left _ he)
  case refine_6 => exact lane_stopSeat_waiting ha (.inr rfl) hflight fun e he => hwaits e (List.mem_append_right _ he)
  case refine_7 =>
    exact reports_stopSeat (t := s) ha rfl rfl (queuedIn_waits fun e he => hwaits e (List.mem_append_left _ he))
      (queuedIn_waits fun e he => hwaits e (List.mem_append_right _ he)) hwaits
  case refine_8 =>
    intro u e prompts echoes hu hwaits hqueued _
    have hp : ∀ x ∈ prompts, Waits k x := fun x hx => hwaits x (List.mem_append_left _ hx)
    have he : ∀ x ∈ echoes, Waits k x := fun x hx => hwaits x (List.mem_append_right _ hx)
    refine ⟨fun hi hprompt hecho => ⟨?_, ?_, ?_⟩, fun hi hprompt hecho => ⟨?_, ?_, ?_⟩⟩
    · have hlane := lane_stopSeat_inFlight ha hu (.inl hi) (by rw [hi]; exact hprompt) hqueued hp (.prompt k)
      rwa [if_pos hi.symm] at hlane
    · exact lane_stopSeat_beside ha hu (.inl hi) (by rw [hi]; exact hprompt) hqueued hp (.inr rfl) (by rw [hi]; nofun)
        fun x hx => he x (hecho ▸ hx)
    · exact reports_stopSeat (t := s) ha rfl rfl (queuedIn_inFlight hprompt hqueued hp)
        ((queuedIn_waits fun x hx => he x (hecho ▸ hx)).trans hecho) hwaits
    · exact lane_stopSeat_beside ha hu (.inr hi) (by rw [hi]; exact hecho) hqueued he (.inl rfl) (by rw [hi]; nofun)
        fun x hx => hp x (hprompt ▸ hx)
    · have hlane := lane_stopSeat_inFlight ha hu (.inr hi) (by rw [hi]; exact hecho) hqueued he (.echo k)
      rwa [if_pos hi.symm] at hlane
    · exact reports_stopSeat (t := s) ha rfl rfl ((queuedIn_waits fun x hx => hp x (hprompt ▸ hx)).trans hprompt)
        (queuedIn_inFlight hecho hqueued he) hwaits
  case refine_14 => exact (congrArg (fun m => m.live.get (otherSeat k)) hmirror).trans (Pair.get_set_other ..)
  case refine_15 =>
    exact congrArg (fun x : State => { x with pins := pinLevels (stopSeat k (carriedFrom s [])), port := framePort s .ok [] })
      (stopSeat_frame ha)
  all_goals
    have hlive : (stopSeat k (carriedFrom s [])).mirror.live.get k = _ :=
      (congrArg (fun m => m.live.get k) hmirror).trans hshown
    simp only [hlive]

end Sys2Proof.Proofs.Stop
end

section
/-! PROOFS. Room for a seat that holds its result (R61, R62, R63, R152). -/
namespace Sys2Proof.Proofs.Room
open Sys2Proof Sys2Proof.Machine Sys2Proof.Safety
open Sys2Proof.Proofs.Refusals Sys2Proof.Proofs.Requests Sys2Proof.Proofs.Seats Sys2Proof.Proofs.Reports
open Sys2Proof.Proofs.Drill Sys2Proof.Proofs.Completion Sys2Proof.Proofs.Done Sys2Proof.Proofs.Enter
open Sys2Proof.Proofs.Resume Sys2Proof.Proofs.NextWord

/-! ## The frame -/

theorem exec_readReports {clocked n : Nat} {room : RoomOrder} {s : State} (h : PortIdle s)
    (hn : wholeRecords clocked s.reports.queue.length = n) (hsome : n ≠ 0) :
    exec (.readReports .frameEnd clocked room) s =
      .next
        { settle (tellRoom room (meetEach room.met (recordsTaken n (carriedFrom s (reportsReply s.reports.queue))))) with
          port := framePort s .ok (reportsReply s.reports.queue) } := by
  have hcarry := carryReadReports_some (room := room) (shown := shownNow s)
    (s := carriedFrom s (reportsReply s.reports.queue)) hn hsome
  have hport : (settle (tellRoom room (meetEach room.met
      (recordsTaken n (carriedFrom s (reportsReply s.reports.queue)))))).port
      = (carriedFrom s (reportsReply s.reports.queue)).port := by simp [recordsTaken, lessRecords]
  refine exec_carried h rfl (checkRequest_readReports _ _ _) hcarry ?_
  rw [recordOutcome, hport]
  rfl

/-! ## A seat whose result has been taken -/

theorem resultPosted_eq {k : Seat} {p : PendingResult} (s : State) (hseat : p.result.seat = k) :
    resultPosted k p s = resultTaken k p s := by
  subst hseat
  simp only [resultPosted, resultTaken, recordPosted, saturatingSucc_word]

/-- What AGED was before a record joins does not matter. -/
theorem resultTaken_recordsTaken (k : Seat) (p : PendingResult) (n : Nat) (s : State) :
    resultTaken k p (recordsTaken n s) = resultTaken k p (lessRecords n s) := rfl

theorem seat_resultTaken (k : Seat) (p : PendingResult) (s : State) :
    (resultTaken k p s).seat k =
      { s.seat k with
        round := if (s.seat k).round = 65535 then 65535 else (s.seat k).round + 1,
        previousWord := (s.seat k).currentWord, pendingResult := none } := Pair.get_set_self ..

theorem seat_resultTaken_other (k : Seat) (p : PendingResult) (s : State) :
    (resultTaken k p s).seat (otherSeat k) = s.seat (otherSeat k) := Pair.get_set_other ..

theorem queue_resultTaken (k : Seat) (p : PendingResult) (s : State) :
    (resultTaken k p s).reports.queue = s.reports.queue ++ [stamped s (.wordResult p.result)] := rfl

/-- A holding seat with a result, in REVIEW(FINAL) or paused from it. -/
def Holds (k : Seat) (p : PendingResult) (s : State) : Prop :=
  ((s.seat k).state = .review .final ∨ ∃ reason, (s.seat k).state = .paused reason (.review .final))
    ∧ (s.seat k).pendingResult = some p ∧ p.result.seat = k

theorem holds_of_seats {k : Seat} {p : PendingResult} {s t : State} (hseats : t.seats = s.seats) (h : Holds k p s) :
    Holds k p t := by
  rw [Holds, State.seat, hseats]
  exact h

theorem tryPost_eq {k : Seat} {p : PendingResult} {s : State} (h : Holds k p s) (hroom : s.reports.queue.length < 16) :
    tryPost k s = resultTaken k p s := by
  obtain ⟨-, hpending, hseat⟩ := h
  rw [tryPost_of_room hpending hroom, resultPosted_eq s hseat]

theorem not_word_of_final {c : SeatContext}
    (h : c.state = .review .final ∨ ∃ reason, c.state = .paused reason (.review .final)) :
    c.state ≠ .present ∧ c.state ≠ .entry ∧ c.state ≠ .idle := by
  rcases h with h | ⟨reason, h⟩ <;> rw [h] <;> exact ⟨nofun, nofun, nofun⟩

/-- In REVIEW(FINAL) or paused from it, with something left to wait for, a seat neither leaves nor takes a key. -/
theorem leaveThenTake_stays {k : Seat} {t : State}
    (hstate : (t.seat k).state = .review .final ∨ ∃ reason, (t.seat k).state = .paused reason (.review .final))
    (hwaits : (t.seat k).state ≠ .review .final ∨ (t.seat k).reviewFeedback ≠ none ∨ (t.seat k).pendingResult ≠ none) :
    leaveThenTake k t = t := by
  obtain ⟨hpresent, hentry, hidle⟩ := not_word_of_final hstate
  rw [leaveThenTake, leaveReviewIfDone_of_not hwaits, takeKeys_of_resting hpresent hentry hidle]

/-! ## Who is told -/

theorem holding_of_holds {k : Seat} {p : PendingResult} {s : State} (h : Holds k p s) : (s.seat k).holding = true := by
  rw [SeatContext.holding, h.2.1]
  rfl

/-- One seat holds: it alone is told. -/
theorem tellRoom_one {k : Seat} {p : PendingResult} {room : RoomOrder} {s : State} (h : Holds k p s)
    (hother : (s.seat (otherSeat k)).pendingResult = none) : tellRoom room s = offerThenLeave k s := by
  have hk := holding_of_holds h
  have ho : (s.seat (otherSeat k)).holding = false := by rw [SeatContext.holding, hother]; rfl
  have hcases : room.first = k ∨ room.first = otherSeat k := by cases room.first <;> cases k <;> simp [otherSeat]
  have htwice : otherSeat (otherSeat k) = k := by cases k <;> rfl
  unfold tellRoom
  rcases hcases with hfirst | hfirst
  · simp [hfirst, hk, ho]
  · simp [hfirst, hk, ho, htwice]

/-! ## The end of the event -/

/-- A seat without a timer that needs none. -/
def Rests (c : SeatContext) : Prop := c.idleTimer = none ∧ c.state ≠ .present ∧ c.state ≠ .entry

/-- An event after which every seat is as it was or rests moves the lines alone. -/
theorem settle_of_each {s x : State} (hl : LinesFollow s) (h : ∀ k, x.seat k = s.seat k ∨ Rests (x.seat k))
    (hlanes : ∀ k, x.lane (.prompt k) = s.lane (.prompt k) ∧ x.lane (.echo k) = s.lane (.echo k)) :
    settle x = { x with pins := pinLevels x } := by
  refine settle_eq_pins fun k => ?_
  rcases h k with hsame | ⟨hidle, hpresent, hentry⟩
  · have hruns := ((linesFollow_iff s).mp hl).2 k
    obtain ⟨hp, he⟩ := hlanes k
    simp only [idleTimerRuns, seatEntries, hsame, hp, he] at hruns ⊢
    exact hruns
  · have hruns : idleTimerRuns k x = false :=
      Bool.eq_false_iff.mpr fun h => ((idleTimerRuns_iff k x).mp h).1.elim hpresent hentry
    rw [hruns, hidle]
    rfl

theorem idleTimer_of_holds {k : Seat} {p : PendingResult} {s : State} (hl : LinesFollow s) (h : Holds k p s) :
    (s.seat k).idleTimer = none := by
  obtain ⟨hpresent, hentry, -⟩ := not_word_of_final h.1
  exact idleTimer_of_state hl hpresent hentry

theorem rests_resultTaken {k : Seat} {p : PendingResult} {s : State} (h : Holds k p s) (hidle : (s.seat k).idleTimer = none) :
    Rests ((resultTaken k p s).seat k) := by
  obtain ⟨hpresent, hentry, -⟩ := not_word_of_final h.1
  rw [seat_resultTaken]
  exact ⟨hidle, hpresent, hentry⟩

/-- A seat is the one or the other. -/
theorem seat_cases (k j : Seat) : j = k ∨ j = otherSeat k := by cases k <;> cases j <;> simp [otherSeat]

theorem length_lessRecords {n : Nat} {s : State} (hlen : s.reports.queue.length = 16) :
    (lessRecords n s).reports.queue.length = 16 - n := by
  rw [← hlen]
  exact List.length_drop ..

theorem length_recordsTaken {n : Nat} {s : State} (hlen : s.reports.queue.length = 16) :
    (recordsTaken n s).reports.queue.length = 16 - n := length_lessRecords hlen

/-- One record fills a queue that has one free slot. -/
theorem full_after_record {s : State} (hlen : s.reports.queue.length = 16) (r : Record) :
    16 ≤ ((lessRecords 1 s).reports.queue ++ [r]).length := by
  have hless := length_lessRecords (n := 1) hlen
  rw [List.length_append, List.length_singleton]
  omega

/-! ## One holding seat -/

section One
variable {k : Seat} {p : PendingResult} {room : RoomOrder} {s : State} (hl : LinesFollow s) (h : Holds k p s)
variable (hother : (s.seat (otherSeat k)).pendingResult = none) (hlen : s.reports.queue.length = 16)
include hl h hother hlen

omit hl in
theorem tellRoom_posts :
    tellRoom room (recordsTaken 1 s) = leaveThenTake k (resultTaken k p (lessRecords 1 s)) := by
  rw [tellRoom_one (s := recordsTaken 1 s) h hother, offerThenLeave, tryPost_eq (s := recordsTaken 1 s) h
    (by rw [length_recordsTaken hlen]; decide), resultTaken_recordsTaken]

/-- The result is posted, and the seat stays where it is. -/
theorem one_stays (hwaits : (s.seat k).reviewFeedback ≠ none ∨ (s.seat k).state ≠ .review .final) :
    EndsAs (settle (tellRoom room (recordsTaken 1 s))) (resultTaken k p (lessRecords 1 s)) := by
  have hseat := seat_resultTaken k p (lessRecords 1 s)
  have hstays : leaveThenTake k (resultTaken k p (lessRecords 1 s)) = resultTaken k p (lessRecords 1 s) :=
    leaveThenTake_stays (by rw [hseat]; exact h.1) (by rw [hseat]; exact hwaits.symm.imp_right .inl)
  rw [tellRoom_posts h hother hlen, hstays]
  refine ⟨_, settle_of_each hl (fun j => ?_) fun _ => ⟨rfl, rfl⟩⟩
  rcases seat_cases k j with rfl | rfl
  · exact .inr (rests_resultTaken (s := lessRecords 1 s) h (idleTimer_of_holds (s := s) hl h))
  · exact .inl (seat_resultTaken_other ..)

/-- A seat that its result has left, in IDLE and without a key. -/
def leftIdle (k : Seat) (posted s : State) : State :=
  { posted with
    seats := s.seats.set k { posted.seat k with state := .idle, currentWord := none, line := [] },
    keyQueues := s.keyQueues.set k [],
    mirror :=
      { s.mirror with live := liveWith k .idle 0 (s.mirror.live.get k).verdict (s.seat k).tries [] s } }

/-- The result is posted, and nothing keeps the seat in REVIEW any more. -/
theorem one_leaves (hfeedback : (s.seat k).reviewFeedback = none) (hstate : (s.seat k).state = .review .final)
    (hauto : (s.seat k).settings.autoNext = false) :
    EndsAs (settle (tellRoom room (recordsTaken 1 s))) (leftIdle k (resultTaken k p (lessRecords 1 s)) s) := by
  have hseat := seat_resultTaken k p (lessRecords 1 s)
  have hleaves : leaveThenTake k (resultTaken k p (lessRecords 1 s))
      = leftIdle k (resultTaken k p (lessRecords 1 s)) s := by
    rw [leaveThenTake, leaveReviewIfDone_idle (by rw [hseat]; exact hstate) (by rw [hseat]; exact hfeedback) (by rw [hseat])
      (by rw [hseat]; exact hauto), toIdle_eq, takeKeys_of_idle (by rw [seatShown, State.seat, Pair.get_set_self]), seatShown,
      leftIdle, hseat]
    simp only [resultTaken, lessRecords, Pair.set_set]
    rfl
  rw [tellRoom_posts h hother hlen, hleaves]
  refine ⟨_, settle_of_each hl (fun j => ?_) fun _ => ⟨rfl, rfl⟩⟩
  rcases seat_cases k j with rfl | rfl
  · refine .inr ?_
    rw [leftIdle, State.seat, Pair.get_set_self, hseat]
    exact ⟨idleTimer_of_holds (s := s) hl h, nofun, nofun⟩
  · exact .inl (Pair.get_set_other ..)

end One

/-! ## A record that is first -/

/-- A DONE for the phrase at the head of the system lane, as a step that meets a frame end. -/
theorem meet_done {u : Utterance} {e : SpeechEntry} {rest : List SpeechEntry} {g : Handle} {s t : State} (hl : LinesFollow s)
    (hseats : t.seats = s.seats) (hlanes : t.lanes = s.lanes) (hfetched : t.link.fetched = true)
    (hu : t.link.inFlight = some u) (hsystem : u.lane = .system) (hlane : t.lane .system = e :: rest) (hseat : e.seat = none)
    (hcontent : e.content = .phrase g) (hkept : (t.handle g).state = .kept) :
    EndsAs (meet (.engineDone u.serial 1) t) { systemSpoken .played e rest g t with link := linkDone t } := by
  have hexec := exec_engineDone hfetched hu (outcome := 1) rfl
  rw [complete_systemSpoken hu hsystem hlane hseat hcontent hkept] at hexec
  have hmeet : meet (.engineDone u.serial 1) t = settle { systemSpoken .played e rest g t with link := linkDone t } :=
    Host.Outcome.next.inj hexec
  refine ⟨_, hmeet.trans (settle_of_seats hl hseats fun k => ?_)⟩
  rw [State.lane, State.lane, State.lane, State.lane, ← hlanes]
  exact ⟨rfl, rfl⟩

/-- A queue that is full leaves the seat holding. -/
theorem tellRoom_full {k : Seat} {p : PendingResult} {room : RoomOrder} {s : State} (h : Holds k p s)
    (hother : (s.seat (otherSeat k)).pendingResult = none) (hfull : 16 ≤ s.reports.queue.length) :
    tellRoom room s = s := by
  rw [tellRoom_one h hother, offerThenLeave, tryPost_of_full hfull,
    leaveThenTake_stays h.1 (.inr (.inr (by rw [h.2.1]; nofun)))]

/-- The SPEECH_DONE of a DONE takes the one free slot. -/
theorem one_displaced {k : Seat} {p : PendingResult} {room : RoomOrder} {u : Utterance} {e : SpeechEntry}
    {rest : List SpeechEntry} {g : Handle} {s : State} (hl : LinesFollow s) (h : Holds k p s)
    (hother : (s.seat (otherSeat k)).pendingResult = none) (hlen : s.reports.queue.length = 16)
    (hmet : room.met = [.engineDone u.serial 1]) (hfetched : s.link.fetched = true) (hu : s.link.inFlight = some u)
    (hsystem : u.lane = .system) (hlane : s.lane .system = e :: rest) (hseat : e.seat = none)
    (hcontent : e.content = .phrase g) (hkept : (s.handle g).state = .kept) (htag : e.tag ≠ 0) :
    EndsAs (settle (tellRoom room (meetEach room.met (recordsTaken 1 s))))
      { referenceGivenUp g (lessRecords 1 s) with
        lanes := { s.lanes with system := rest }, link := linkDone s,
        reports := withRecord (referenceGivenUp g (lessRecords 1 s)) (.speechDone e.tag .played none e.channel) } := by
  obtain ⟨pins, hmeet⟩ := meet_done (t := recordsTaken 1 s) hl rfl rfl hfetched hu hsystem hlane hseat hcontent hkept
  have hoffered : offered (recordsTaken 1 s) (.speechDone e.tag .played none e.channel)
      = withRecord (lessRecords 1 s) (.speechDone e.tag .played none e.channel) :=
    offered_of_room (by rw [length_recordsTaken hlen]; decide) _
  have hspoken : ∀ t : State, t = { systemSpoken .played e rest g (recordsTaken 1 s) with
      link := linkDone (recordsTaken 1 s), pins := pins } → tellRoom room t = t := by
    intro t ht
    have hseats : t.seats = s.seats := by rw [ht]; rfl
    refine tellRoom_full (k := k) (p := p) (holds_of_seats hseats h) (by rw [State.seat, hseats]; exact hother) ?_
    subst ht
    simp only [systemSpoken, if_neg htag, hoffered]
    exact full_after_record hlen _
  have hsettled : settle (meet (.engineDone u.serial 1) (recordsTaken 1 s)) = meet (.engineDone u.serial 1) (recordsTaken 1 s) :=
    settle_eq_self (linesFollow_settle _)
  rw [hmet]
  change EndsAs (settle (tellRoom room (meet (.engineDone u.serial 1) (recordsTaken 1 s)))) _
  rw [hspoken _ hmeet, hsettled, hmeet]
  refine ⟨pins, ?_⟩
  simp only [systemSpoken, if_neg htag, hoffered]
  rfl

/-! ## Two holding seats -/

/-- Both seats are in REVIEW(FINAL) or paused from it, and their feedback still plays. -/
def Reviewing (s : State) : Prop :=
  ∀ k, ((s.seat k).state = .review .final ∨ ∃ reason, (s.seat k).state = .paused reason (.review .final))
    ∧ (s.seat k).reviewFeedback ≠ none

theorem leaveThenTake_reviewing {k : Seat} {s : State} (h : Reviewing s) : leaveThenTake k s = s :=
  leaveThenTake_stays (h k).1 (.inr (.inl (h k).2))

theorem reviewing_resultTaken {k : Seat} {p : PendingResult} {s : State} (h : Reviewing s) :
    Reviewing (resultTaken k p s) := fun j => by
  rcases seat_cases k j with rfl | rfl
  · rw [seat_resultTaken]
    exact h j
  · rw [seat_resultTaken_other]
    exact h _

theorem reviewing_tryPost {k : Seat} {p : PendingResult} {s : State} (h : Reviewing s) (hholds : Holds k p s) :
    Reviewing (tryPost k s) := by
  by_cases hroom : s.reports.queue.length < 16
  · rw [tryPost_eq hholds hroom]
    exact reviewing_resultTaken h
  · rwa [tryPost_of_full (Nat.le_of_not_lt hroom)]

theorem holds_resultTaken (k : Seat) {p q : PendingResult} {s : State} (h : Holds (otherSeat k) q s) :
    Holds (otherSeat k) q (resultTaken k p s) := by
  unfold Holds
  rw [seat_resultTaken_other]
  exact h

theorem holds_tryPost {k : Seat} {p q : PendingResult} {s : State} (hk : Holds k p s) (h : Holds (otherSeat k) q s) :
    Holds (otherSeat k) q (tryPost k s) := by
  by_cases hroom : s.reports.queue.length < 16
  · rw [tryPost_eq hk hroom]
    exact holds_resultTaken k h
  · rwa [tryPost_of_full (Nat.le_of_not_lt hroom)]

section Two
variable {p q : PendingResult} {room : RoomOrder} {s : State} (hreviewing : Reviewing s)
variable (hx : Holds room.first p s) (hy : Holds (otherSeat room.first) q s)
include hreviewing hx hy

/-- Seats whose feedback still plays offer one after the other, and neither leaves. -/
theorem tellRoom_two : tellRoom room s = tryPost (otherSeat room.first) (tryPost room.first s) := by
  have hfirst := reviewing_tryPost hreviewing hx
  have hboth := reviewing_tryPost hfirst (holds_tryPost hx hy)
  have hbetween : offerThenLeave room.first s = tryPost room.first s := leaveThenTake_reviewing hfirst
  have hafter : offerThenLeave (otherSeat room.first) (tryPost room.first s)
      = tryPost (otherSeat room.first) (tryPost room.first s) := leaveThenTake_reviewing hboth
  simp only [tellRoom, holding_of_holds hx, holding_of_holds hy, Bool.and_self, if_true, hbetween, hafter,
    leaveThenTake_reviewing hboth, ite_self]

variable (hl : LinesFollow s) (hlen : s.reports.queue.length = 16)
include hl hlen

/-- One free slot: the seat that offers first posts. -/
theorem two_one_slot :
    EndsAs (settle (tellRoom room (recordsTaken 1 s))) (resultTaken room.first p (lessRecords 1 s)) := by
  have hfirst : tryPost room.first (recordsTaken 1 s) = resultTaken room.first p (lessRecords 1 s) :=
    tryPost_eq (s := recordsTaken 1 s) hx (by rw [length_recordsTaken hlen]; decide)
  have hfull : 16 ≤ (resultTaken room.first p (lessRecords 1 s)).reports.queue.length := full_after_record hlen _
  rw [tellRoom_two (s := recordsTaken 1 s) hreviewing hx hy, hfirst, tryPost_of_full hfull]
  refine ⟨_, settle_of_each hl (fun j => ?_) fun _ => ⟨rfl, rfl⟩⟩
  rcases seat_cases room.first j with rfl | rfl
  · exact .inr (rests_resultTaken (s := lessRecords 1 s) hx (idleTimer_of_holds (s := s) hl hx))
  · exact .inl (seat_resultTaken_other ..)

/-- Two free slots: both post. -/
theorem two_two_slots :
    EndsAs (settle (tellRoom room (recordsTaken 2 s)))
      (resultTaken (otherSeat room.first) q (resultTaken room.first p (lessRecords 2 s))) := by
  have hfirst : tryPost room.first (recordsTaken 2 s) = resultTaken room.first p (lessRecords 2 s) :=
    tryPost_eq (s := recordsTaken 2 s) hx (by rw [length_recordsTaken hlen]; decide)
  have hholds : Holds (otherSeat room.first) q (resultTaken room.first p (lessRecords 2 s)) :=
    holds_resultTaken (s := lessRecords 2 s) room.first hy
  have hroom : (resultTaken room.first p (lessRecords 2 s)).reports.queue.length < 16 := by
    rw [queue_resultTaken, List.length_append, length_lessRecords hlen, List.length_singleton]
    decide
  rw [tellRoom_two (s := recordsTaken 2 s) hreviewing hx hy, hfirst, tryPost_eq hholds hroom]
  refine ⟨_, settle_of_each hl (fun j => .inr ?_) fun _ => ⟨rfl, rfl⟩⟩
  rcases seat_cases (otherSeat room.first) j with rfl | rfl
  · refine rests_resultTaken hholds ?_
    rw [seat_resultTaken_other]
    exact idleTimer_of_holds (s := s) hl hy
  · rw [seat_resultTaken_other]
    have hback : otherSeat (otherSeat room.first) = room.first := by cases room.first <;> rfl
    rw [hback]
    exact rests_resultTaken (s := lessRecords 2 s) hx (idleTimer_of_holds (s := s) hl hx)

end Two

/-! ## The obligation -/

theorem reviewing_of_both {k : Seat} {s : State} {p q : PendingResult} (hx : Holds k p s) (hy : Holds (otherSeat k) q s)
    (hfx : (s.seat k).reviewFeedback ≠ none) (hfy : (s.seat (otherSeat k)).reviewFeedback ≠ none) : Reviewing s := fun j => by
  rcases seat_cases k j with rfl | rfl
  · exact ⟨hx.1, hfx⟩
  · exact ⟨hy.1, hfy⟩

/-- Settles O34: by who holds, what keeps it in REVIEW, and how many slots are free when it is told. -/
theorem roomLetsAHoldingSeatPost : Obligations.RoomLetsAHoldingSeatPost := by
  unfold Obligations.RoomLetsAHoldingSeatPost
  refine ⟨fun k p room s h hl hholds hother hlen => ?_, fun p q i j room s h hl hx hy hfx hfy hlen hmet => ?_⟩
  · have hexec := exec_readReports (room := room) h (clocked := 17) (n := 1) (by rw [hlen]; rfl) (by decide)
    have hl' : LinesFollow (carriedFrom s (reportsReply s.reports.queue)) := linesFollow_carriedFrom _ hl
    refine ⟨fun hwaits hmet => ?_, fun hfeedback hstate hauto hmet _ => ?_, ?_⟩
    · rw [hmet] at hexec
      exact (one_stays hl' hholds hother hlen hwaits).next hexec
    · rw [hmet] at hexec
      exact (one_leaves hl' hholds hother hlen hfeedback hstate hauto).next hexec
    · intro u e rest g hmet hfetched hu hsystem hlane hseat hcontent hkept htag
      exact (one_displaced hl' hholds hother hlen hmet hfetched hu hsystem hlane hseat hcontent hkept htag).next hexec
  · have hl' : LinesFollow (carriedFrom s (reportsReply s.reports.queue)) := linesFollow_carriedFrom _ hl
    have hreviewing : Reviewing s := reviewing_of_both hx hy (by rw [hfx]; nofun) (by rw [hfy]; nofun)
    have hone := exec_readReports (room := room) h (clocked := 17) (n := 1) (by rw [hlen]; rfl) (by decide)
    have htwo := exec_readReports (room := room) h (clocked := 33) (n := 2) (by rw [hlen]; rfl) (by decide)
    rw [hmet] at hone htwo
    exact ⟨(two_one_slot (s := carriedFrom s _) hreviewing hx hy hl' hlen).next hone,
      (two_two_slots (s := carriedFrom s _) hreviewing hx hy hl' hlen).next htwo⟩

end Sys2Proof.Proofs.Room
end
